-- ==== Sys2Proof/Word.lean ====
section
/-! DEFINITION. The word types of the Modbus-RTU timing detector block: what the spec writes and reads as bits. -/

namespace Sys2Proof

/-- A command word or event word, 48 bits (spec/30_encoding.md R80). -/
abbrev Word := BitVec 48

/-- A data byte (`DATA_W` = 8, spec/00_scope.md R7). -/
abbrev Byte := BitVec 8

/-- A 16-bit register value: thresholds, gap timer, the `val` of a response (R20, R84). -/
abbrev Half := BitVec 16

/-- A half of a byte, the payload of one physical transfer (spec/00_scope.md R15). -/
abbrev Nibble := BitVec 4

/-- A channel number of the transport, 0..7, 3 bits on the link (spec/45_mux_transport.md R201). -/
abbrev Chan := BitVec 3

end Sys2Proof
end

