-- ==== Sys2Proof/Config.lean ====
section
/-! DEFINITION. The parameters of the block (spec/00_scope.md R7): the ones a rule reads as a record with the spec's
defaults, the ones the spec leaves OPEN as opaque constants, and what a storage cell nothing has written reads as. -/

namespace Sys2Proof

/-- The parameters of R7 that are not fixed by the source, each with its default. The widths `W_*` of the five counters are
carried by the counters themselves (`Machine.Counter`), so that each may be 8 or 16 (log entry 3). -/
structure Config where
  /-- `CMD_W`, the width of a command or event word (R7, D1) -/
  cmdW : Nat := 48
  /-- `RSP_W`, the width of a response word (R7, D2) -/
  rspW : Nat := 24
  /-- `EVF_W`, the number of event flags (R7, D8) -/
  evfW : Nat := 8
  /-- `GAP_W`, the width of the gap timer and of both thresholds (R7, D15) -/
  gapW : Nat := 16
  /-- `PSC_W`, the width of the prescaler select (R7, D16) -/
  pscW : Nat := 3
  /-- `RBUF_SIZE`, the number N of slots of the receive buffer; usable capacity N-1 (R7, D9). -/
  rbufSize : Nat := 64
  /-- `ENQ_RETRY_BUDGET`, how often a blocking enqueue may find the queue full before it fails (R7, D26). -/
  enqRetryBudget : Nat := 255
  /-- `TX_IDLE`, the byte emitted when nothing is queued (R7, D23). -/
  txIdle : Byte := 0x00#8
  deriving DecidableEq, Repr

/-- The spec's default parameters (R7). -/
def Config.default : Config := {}

/-- The ranges of the parameters. R7 gives 2 ≤ N ≤ 256 and `ENQ_RETRY_BUDGET` ≥ 1. It gives the five widths none: a
word is exactly 48 bits (R80) and a response 24 (R84), and the other three are at most what the operand fields of R81 carry
(DESIGN CHOICE, log entry 12). -/
abbrev Config.wf (c : Config) : Prop :=
  2 ≤ c.rbufSize ∧ c.rbufSize ≤ 256 ∧ 1 ≤ c.enqRetryBudget ∧
  c.cmdW = 48 ∧ c.rspW = 24 ∧ (1 ≤ c.evfW ∧ c.evfW ≤ 8) ∧ (1 ≤ c.gapW ∧ c.gapW ≤ 16) ∧ (1 ≤ c.pscW ∧ c.pscW ≤ 3)

/-- The largest value of the gap timer and of a threshold, `2^GAP_W - 1`: 0xFFFF by default (R181, R281). -/
def Config.gapMax (c : Config) : Nat := 2 ^ c.gapW - 1

/-- What a cell of `RBUF.MEM` that no entry lists reads as. DESIGN CHOICE (log entry 4): R20 leaves the reset
contents unspecified, and R37 shows that no operation can observe them. -/
def Config.unwrittenByte : Byte := 0x00#8

/-- `PSC_DIV`: the divide ratio of each prescaler select code. OPEN, the platform's (R7, D16); a free value. -/
opaque Config.pscDiv : BitVec 3 → Nat

/-- The processor clock in Hz, of which `F_GAPTICK` is a division. OPEN, the platform's (R7, R181); a free value. -/
opaque Config.processorClock : Nat

/-- `F_GAPTICK`, the rate of the gap-timer tick: clock over `PSC_DIV` (R7, R181). No rule of the block reads it. -/
def Config.fGapTick (psc : BitVec 3) : Nat := Config.processorClock / Config.pscDiv psc

end Sys2Proof
end

