-- ==== Sys2Proof/Syntax.lean ====
section
/-! DEFINITION. The 24 operations of MTD-OPS version 1: sixteen command words of the HOST and eight event words of the
environment (spec/30_encoding.md R83), one constructor per row of spec/opcode_table.json, in the table's order. -/

namespace Sys2Proof

/-- One step kind of the block with its operands (R81, R82: every operand is an unsigned field; a 1-bit field is a Bool). -/
inductive Instr where
  /-- `IEN.ENTER` (R125) -/
  | ienEnter
  /-- `IEN.EXIT s` (R126) -/
  | ienExit (saved : Bool)
  /-- `IEN.ON` (R127) -/
  | ienOn
  /-- `CNT.RD idx` (R112) -/
  | cntRd (idx : BitVec 3)
  /-- `EVF.SET m` (R121) -/
  | evfSet (m : Byte)
  /-- `EVF.CLR m` (R122) -/
  | evfClr (m : Byte)
  /-- `EVF.TST m` (R123) -/
  | evfTst (m : Byte)
  /-- `RBUF.PUSH b` (R142) -/
  | rbufPush (b : Byte)
  /-- `RBUF.POP` (R143) -/
  | rbufPop
  /-- `RBUF.AVAIL` (R144) -/
  | rbufAvail
  /-- `RBUF.PEEK off` (R145) -/
  | rbufPeek (off : Byte)
  /-- `RBUF.FLUSH` (R147) -/
  | rbufFlush
  /-- `MTD.SETTHR t15, t35, psc` (R183) -/
  | mtdSetthr (t15 t35 : Half) (psc : BitVec 3)
  /-- `MTD.RDGAP` (R185) -/
  | mtdRdgap
  /-- `MUX.ENQ ch, b, blk` (R204) -/
  | muxEnq (ch : Chan) (b : Byte) (blk : Bool)
  /-- `MUX.REG ch, en` (R209) -/
  | muxReg (ch : Chan) (en : Bool)
  /-- `EV.BASETICK` (R162) -/
  | evBasetick
  /-- `EV.HOOKDONE` (R164) -/
  | evHookdone
  /-- `EV.GAPTICK` (R181) -/
  | evGaptick
  /-- `EV.MBRX data, fe, dor, pe` (R184) -/
  | evMbrx (data : Byte) (fe dor pe : Bool)
  /-- `EV.CONRX data` (R146) -/
  | evConrx (data : Byte)
  /-- `EV.LINK rx` (R206) -/
  | evLink (rx : Byte)
  /-- `EV.ENQRETRY` (R205) -/
  | evEnqretry
  /-- `EV.RESET` (R281) -/
  | evReset
  deriving DecidableEq, Repr

/-- The mnemonic of each operation, as spec/opcode_table.json and R83 spell it. -/
def Instr.mnemonic : Instr → String
  | .ienEnter => "IEN.ENTER"
  | .ienExit _ => "IEN.EXIT"
  | .ienOn => "IEN.ON"
  | .cntRd _ => "CNT.RD"
  | .evfSet _ => "EVF.SET"
  | .evfClr _ => "EVF.CLR"
  | .evfTst _ => "EVF.TST"
  | .rbufPush _ => "RBUF.PUSH"
  | .rbufPop => "RBUF.POP"
  | .rbufAvail => "RBUF.AVAIL"
  | .rbufPeek _ => "RBUF.PEEK"
  | .rbufFlush => "RBUF.FLUSH"
  | .mtdSetthr _ _ _ => "MTD.SETTHR"
  | .mtdRdgap => "MTD.RDGAP"
  | .muxEnq _ _ _ => "MUX.ENQ"
  | .muxReg _ _ => "MUX.REG"
  | .evBasetick => "EV.BASETICK"
  | .evHookdone => "EV.HOOKDONE"
  | .evGaptick => "EV.GAPTICK"
  | .evMbrx _ _ _ _ => "EV.MBRX"
  | .evConrx _ => "EV.CONRX"
  | .evLink _ => "EV.LINK"
  | .evEnqretry => "EV.ENQRETRY"
  | .evReset => "EV.RESET"

end Sys2Proof
end

