-- ==== Sys2Proof/WellFormed.lean ====
section
/-! DEFINITION. Which terms of Instr spell an operation. Every operand field has its exact width in the type, so one
check is left: the counter index of `CNT.RD` (spec/30_encoding.md R82, R86). -/

namespace Sys2Proof

/-- `CNT.RD idx` is legal for `idx` 0..4 (R82, R112; 5..7 are illegal, R86); every other operand is legal at every
value (`MTD.SETTHR` decodes for every operand and answers `BADARG` itself, R183). -/
def Instr.wf : Instr → Bool
  | .cntRd idx => decide (idx.toNat ≤ 4)
  | .ienEnter => true
  | .ienExit _ => true
  | .ienOn => true
  | .evfSet _ => true
  | .evfClr _ => true
  | .evfTst _ => true
  | .rbufPush _ => true
  | .rbufPop => true
  | .rbufAvail => true
  | .rbufPeek _ => true
  | .rbufFlush => true
  | .mtdSetthr _ _ _ => true
  | .mtdRdgap => true
  | .muxEnq _ _ _ => true
  | .muxReg _ _ => true
  | .evBasetick => true
  | .evHookdone => true
  | .evGaptick => true
  | .evMbrx _ _ _ _ => true
  | .evConrx _ => true
  | .evLink _ => true
  | .evEnqretry => true
  | .evReset => true

end Sys2Proof
end

