-- ==== Sys2Proof/Decode.lean ====
section
/-! DEFINITION. From 48-bit words to operations and back (spec/30_encoding.md R80 to R83, R86): the decoder, total on
every word and rejecting by name, the encoder, and the host's view of the opcode table. -/

namespace Sys2Proof

/-- Why a word spells no operation (R86). -/
inductive DecodeError where
  /-- `OPC[7]` = 0 and the opcode is not one of the sixteen command opcodes: an illegal command word. -/
  | illegalOpcode
  /-- A command word with a reserved bit of its format set: illegal. -/
  | reservedBits
  /-- `CNT.RD` with an index 5..7: illegal. -/
  | counterIndex
  /-- `OPC[7]` = 1 and the opcode is not one of the eight event opcodes: spells no event. -/
  | unknownEvent
  /-- An event word with a reserved bit of its format set: spells no event. -/
  | eventReservedBits
  deriving DecidableEq, Repr

/-- `OPC`, bits 47:40 of a word (R80). -/
def opcodeOf (w : Word) : BitVec 8 := w.extractLsb' 40 8

/-- `OPC[7]`: 1 marks an event word, 0 a command word (R80). -/
def isEventWord (w : Word) : Bool := w.getLsbD 47

/-- The rejection of a word whose reserved bits are not all 0 (R81, R86). -/
def reservedError (w : Word) : DecodeError :=
  if isEventWord w then .eventReservedBits else .reservedBits

/-- The rejection of a word whose opcode is not listed (R83, R86). -/
def opcodeError (w : Word) : DecodeError :=
  if isEventWord w then .unknownEvent else .illegalOpcode

/-- Accept the operation read from a word when its reserved bits are 0, else reject the word. -/
def whenReservedZero (w : Word) (reservedZero : Bool) (i : Instr) : Except DecodeError Instr :=
  if reservedZero then .ok i else .error (reservedError w)

/-- Format N: no operand, bits 39:0 reserved (R81). -/
def decodeN (w : Word) (i : Instr) : Except DecodeError Instr :=
  whenReservedZero w (w.extractLsb' 0 40 == 0#40) i

/-- Format S: `s` = bit 0, bits 39:1 reserved (R81). -/
def decodeS (w : Word) (f : Bool → Instr) : Except DecodeError Instr :=
  whenReservedZero w (w.extractLsb' 1 39 == 0#39) (f (w.getLsbD 0))

/-- Format I: `idx` = bits 2:0, bits 39:3 reserved; the legal values of `idx` are 0..4 (R81, R82, R86). -/
def decodeI (w : Word) (f : BitVec 3 → Instr) : Except DecodeError Instr :=
  if w.extractLsb' 3 37 == 0#37 then
    if (w.extractLsb' 0 3).toNat ≤ 4 then .ok (f (w.extractLsb' 0 3)) else .error .counterIndex
  else .error (reservedError w)

/-- Format B: `imm8` = bits 7:0, bits 39:8 reserved (R81). -/
def decodeB (w : Word) (f : Byte → Instr) : Except DecodeError Instr :=
  whenReservedZero w (w.extractLsb' 8 32 == 0#32) (f (w.extractLsb' 0 8))

/-- Format T: `t15` = bits 15:0, `t35` = bits 31:16, `psc` = bits 34:32, bits 39:35 reserved (R81). -/
def decodeT (w : Word) (f : Half → Half → BitVec 3 → Instr) : Except DecodeError Instr :=
  whenReservedZero w (w.extractLsb' 35 5 == 0#5)
    (f (w.extractLsb' 0 16) (w.extractLsb' 16 16) (w.extractLsb' 32 3))

/-- Format Q: `b` = bits 7:0, `ch` = bits 10:8, `blk` = bit 12, bits 39:13 and bit 11 reserved (R81). -/
def decodeQ (w : Word) (f : Chan → Byte → Bool → Instr) : Except DecodeError Instr :=
  whenReservedZero w (w.extractLsb' 13 27 == 0#27 && !w.getLsbD 11)
    (f (w.extractLsb' 8 3) (w.extractLsb' 0 8) (w.getLsbD 12))

/-- Format H: `en` = bit 0, `ch` = bits 10:8, bits 39:11 and bits 7:1 reserved (R81). -/
def decodeH (w : Word) (f : Chan → Bool → Instr) : Except DecodeError Instr :=
  whenReservedZero w (w.extractLsb' 11 29 == 0#29 && w.extractLsb' 1 7 == 0#7)
    (f (w.extractLsb' 8 3) (w.getLsbD 0))

/-- Format R: `data` = bits 7:0, `pe` = bit 8, `dor` = bit 9, `fe` = bit 10, bits 39:11 reserved (R81). -/
def decodeR (w : Word) (f : Byte → Bool → Bool → Bool → Instr) : Except DecodeError Instr :=
  whenReservedZero w (w.extractLsb' 11 29 == 0#29)
    (f (w.extractLsb' 0 8) (w.getLsbD 10) (w.getLsbD 9) (w.getLsbD 8))

/-- The decoder: the operation a 48-bit word spells by the opcode map of R83, or why it spells none (R86). -/
def decode (w : Word) : Except DecodeError Instr :=
  let opc := opcodeOf w
  if opc = 0x01#8 then decodeN w .ienEnter
  else if opc = 0x02#8 then decodeS w .ienExit
  else if opc = 0x03#8 then decodeN w .ienOn
  else if opc = 0x08#8 then decodeI w .cntRd
  else if opc = 0x10#8 then decodeB w .evfSet
  else if opc = 0x11#8 then decodeB w .evfClr
  else if opc = 0x12#8 then decodeB w .evfTst
  else if opc = 0x20#8 then decodeB w .rbufPush
  else if opc = 0x21#8 then decodeN w .rbufPop
  else if opc = 0x22#8 then decodeN w .rbufAvail
  else if opc = 0x23#8 then decodeB w .rbufPeek
  else if opc = 0x24#8 then decodeN w .rbufFlush
  else if opc = 0x30#8 then decodeT w .mtdSetthr
  else if opc = 0x31#8 then decodeN w .mtdRdgap
  else if opc = 0x40#8 then decodeQ w .muxEnq
  else if opc = 0x41#8 then decodeH w .muxReg
  else if opc = 0x80#8 then decodeN w .evBasetick
  else if opc = 0x81#8 then decodeN w .evHookdone
  else if opc = 0x90#8 then decodeN w .evGaptick
  else if opc = 0x91#8 then decodeR w .evMbrx
  else if opc = 0xA0#8 then decodeB w .evConrx
  else if opc = 0xB0#8 then decodeB w .evLink
  else if opc = 0xB1#8 then decodeN w .evEnqretry
  else if opc = 0xFF#8 then decodeN w .evReset
  else .error (opcodeError w)

/-- The opcode of each operation (R83). -/
def Instr.opcode : Instr → BitVec 8
  | .ienEnter => 0x01#8
  | .ienExit _ => 0x02#8
  | .ienOn => 0x03#8
  | .cntRd _ => 0x08#8
  | .evfSet _ => 0x10#8
  | .evfClr _ => 0x11#8
  | .evfTst _ => 0x12#8
  | .rbufPush _ => 0x20#8
  | .rbufPop => 0x21#8
  | .rbufAvail => 0x22#8
  | .rbufPeek _ => 0x23#8
  | .rbufFlush => 0x24#8
  | .mtdSetthr _ _ _ => 0x30#8
  | .mtdRdgap => 0x31#8
  | .muxEnq _ _ _ => 0x40#8
  | .muxReg _ _ => 0x41#8
  | .evBasetick => 0x80#8
  | .evHookdone => 0x81#8
  | .evGaptick => 0x90#8
  | .evMbrx _ _ _ _ => 0x91#8
  | .evConrx _ => 0xA0#8
  | .evLink _ => 0xB0#8
  | .evEnqretry => 0xB1#8
  | .evReset => 0xFF#8

/-- The operand area, bits 39:0, of each operation, most significant field first, reserved bits 0 (R81). -/
def Instr.operands : Instr → BitVec 40
  | .ienEnter => 0#40
  | .ienExit saved => 0#39 ++ BitVec.ofBool saved
  | .ienOn => 0#40
  | .cntRd idx => 0#37 ++ idx
  | .evfSet m => 0#32 ++ m
  | .evfClr m => 0#32 ++ m
  | .evfTst m => 0#32 ++ m
  | .rbufPush b => 0#32 ++ b
  | .rbufPop => 0#40
  | .rbufAvail => 0#40
  | .rbufPeek off => 0#32 ++ off
  | .rbufFlush => 0#40
  | .mtdSetthr t15 t35 psc => 0#5 ++ psc ++ t35 ++ t15
  | .mtdRdgap => 0#40
  | .muxEnq ch b blk => 0#27 ++ BitVec.ofBool blk ++ 0#1 ++ ch ++ b
  | .muxReg ch en => 0#29 ++ ch ++ 0#7 ++ BitVec.ofBool en
  | .evBasetick => 0#40
  | .evHookdone => 0#40
  | .evGaptick => 0#40
  | .evMbrx data fe dor pe => 0#29 ++ BitVec.ofBool fe ++ BitVec.ofBool dor ++ BitVec.ofBool pe ++ data
  | .evConrx data => 0#32 ++ data
  | .evLink rx => 0#32 ++ rx
  | .evEnqretry => 0#40
  | .evReset => 0#40

/-- The encoder: the word of an operation, opcode in bits 47:40 and operands in bits 39:0 (R80, R81, R83). -/
def encode (i : Instr) : Word := i.opcode ++ i.operands

/-- The instruction the decoder reads from the table's word `w` of `nbits` bits, the bits above `nbits` being 0; a word
of this block is one unit of `CMD_W` = 48 bits, so nothing longer is a word (R7, R80). -/
def decodeTableWord (nbits w : Nat) : Option Instr :=
  let v := w % 2 ^ nbits
  if v < 2 ^ Config.default.cmdW then (decode (BitVec.ofNat 48 v)).toOption else none

end Sys2Proof
end

