-- ==== Sys2Proof/Machine/State.lean ====
section
/-! DEFINITION. The state of the block (spec/10_state.md R20, the complete list), the output actions (spec/00_scope.md
R9), why a step can stop, and the state after reset. Everything is plain data. -/

namespace Sys2Proof.Machine

/-- The status codes of a response (spec/30_encoding.md R85). -/
inductive Status where
  /-- 0x00: the command did what it says -/
  | ok
  /-- 0x01: `RBUF.POP` on an empty buffer -/
  | empty
  /-- 0x02: `RBUF.PEEK` beyond the bytes held -/
  | range
  /-- 0x03: an enqueue found no room and did not wait, or gave up -/
  | full
  /-- 0x04: a blocking enqueue now waits -/
  | wait
  /-- 0x05: `MTD.SETTHR` with `t35 ≤ t15` -/
  | badarg
  /-- 0xFF: an illegal command word -/
  | refused
  deriving DecidableEq, Repr

/-- The three outcomes of the gap classification (spec/44_modbus_timing_detector.md R182). -/
inductive GapClass where
  | continuation
  | errorFrame
  | newFrame
  deriving DecidableEq, Repr

/-- The status delivered with a Modbus byte, as three named conditions (R187; packed only at the port). -/
structure MbStatus where
  uartError : Bool
  errFrame : Bool
  newFrame : Bool
  deriving DecidableEq, Repr

/-- The output actions, the block's only outputs (spec/00_scope.md R9, spec/10_state.md R42). -/
inductive Output where
  /-- the response to a command -/
  | rsp (st : Status) (val : Half)
  /-- task hook `k` is invoked -/
  | hookFire (k : Fin 8)
  /-- the application byte handler is invoked -/
  | mbDeliver (data : Byte) (status : MbStatus)
  /-- the receive handler of channel `ch` is invoked -/
  | chDeliver (ch : Chan) (b : Byte)
  /-- the byte handed to the physical link for the next outgoing transfer -/
  | linkTx (b : Byte)
  /-- the deferred result of a blocking enqueue -/
  | enqResult (st : Status)
  /-- the console receive register is to be emptied -/
  | conDrain
  /-- the prescaler select presented to the platform -/
  | pscSel (code : BitVec 3)
  deriving DecidableEq, Repr

/-- A saturating counter: a register of 8 or of 16 bits (R25; the widths `W_*` are parameters, each 8 or 16:
spec/93_implementation_defined.md U3). The width is part of the value and no step changes it (log entry 3). -/
inductive Counter where
  | w8 (v : BitVec 8)
  | w16 (v : BitVec 16)
  deriving DecidableEq, Repr

/-- The five counters, in the order of their `CNT.RD` indices (spec/40_saturating_counters.md R111). -/
inductive CounterId where
  | schOvr
  | rbufErr
  | mtdRxcnt
  | mtdErrcnt
  | muxErr
  deriving DecidableEq, Repr

/-- An entry of the transmit queue: 11 bits, `ch` in bits 10:8 and `b` in bits 7:0 (spec/20_memory.md R60). -/
structure TxEntry where
  ch : Chan
  b : Byte
  deriving DecidableEq, Repr

/-- A pending high nibble of the receive side (R30). -/
structure RxHigh where
  ch : Chan
  nib : Nibble
  deriving DecidableEq, Repr

/-- A blocking enqueue that waits: its byte, how often it may still find the queue full, and the `IE` to restore (R32).
`left` is as wide as `ENQ_RETRY_BUDGET` needs (D34), so it is a number. -/
structure EnqWait where
  ch : Chan
  b : Byte
  left : Nat
  sie : Bool
  deriving DecidableEq, Repr

/-- The storage of `RBUF.MEM`, indexed from 0: the cells that differ from what an unwritten cell reads as, with strictly
rising indices (`Memory.wf` in Machine/Ops.lean). -/
structure Memory where
  cells : List Host.Cell
  deriving DecidableEq, Repr

/-- The complete architectural state of the block (R20), one field for each register and array, and three fields of the
model's own: the parameters of the run, the words the agents still offer, and the record of output actions. -/
structure State where
  /-- the model's own: the parameters of R7; no step changes them -/
  cfg : Config
  /-- `IE`, the global event-delivery enable (R23) -/
  ie : Bool
  /-- `EVF.FLAGS` (R24) -/
  evfFlags : BitVec 8
  /-- `SCH.OVR` (R25) -/
  schOvr : Counter
  /-- `RBUF.ERR` (R25) -/
  rbufErr : Counter
  /-- `MTD.RXCNT` (R25) -/
  mtdRxcnt : Counter
  /-- `MTD.ERRCNT` (R25) -/
  mtdErrcnt : Counter
  /-- `MUX.ERR` (R25) -/
  muxErr : Counter
  /-- `RBUF.R`, the read index (R26) -/
  rbufR : BitVec 8
  /-- `RBUF.W`, the write index (R26) -/
  rbufW : BitVec 8
  /-- `RBUF.MEM[0..N-1]` (R20, R35) -/
  rbufMem : Memory
  /-- `SCH.DIV`, 0..4 (R27) -/
  schDiv : BitVec 3
  /-- `SCH.TICK` (R27) -/
  schTick : BitVec 8
  /-- `SCH.GUARD` (R27) -/
  schGuard : Bool
  /-- `MTD.GAP` (R28) -/
  mtdGap : Half
  /-- `MTD.T15` (R28) -/
  mtdT15 : Half
  /-- `MTD.T35` (R28) -/
  mtdT35 : Half
  /-- `MTD.PSC` (R28) -/
  mtdPsc : BitVec 3
  /-- `MUX.TXQ[0..7]` (R29) -/
  muxTxq : Vector TxEntry 8
  /-- `MUX.RPOS` (R29) -/
  muxRpos : BitVec 3
  /-- `MUX.USED`, 0..8 (R29) -/
  muxUsed : BitVec 4
  /-- `MUX.TXLOW` (R29) -/
  muxTxlow : Option Byte
  /-- `MUX.RXPEND` (R30) -/
  muxRxpend : Option RxHigh
  /-- `MUX.HEN[0..7]` (R31) -/
  muxHen : Vector Bool 8
  /-- `MUX.ENQW` (R32) -/
  muxEnqw : Option EnqWait
  /-- the model's own: the command and event words the agents will present, next first (R16; log entry 1) -/
  stimulus : List Word
  /-- the model's own: the output actions of the run so far, in order (R9; log entry 2) -/
  outputs : List Output
  deriving DecidableEq, Repr

/-- Why the machine stops with a fault. The block itself raises none (R243). -/
inductive Fault where
  /-- A receive-buffer operation would access `RBUF.MEM` at an index not below N. SAFE: raised by the shared access
  operations, so by `RBUF.PUSH`, `EV.CONRX`, `RBUF.POP` and `RBUF.PEEK`, in no state that satisfies R45 (R61: no access can
  fall outside a space), only in start states that R45 puts outside the spec (log entry 6). -/
  | rbufIndexOutside
  deriving DecidableEq, Repr

/-- Why the machine takes no step. -/
inductive Refusal where
  /-- Raised by `exec` for an instruction that has no meaning yet; SAFE. No arm uses it. -/
  | notModelled (mnemonic : String)
  /-- Raised by `EV.BASETICK`, `EV.MBRX`, `EV.CONRX`, `EV.LINK` while `IE` = 0 and by `EV.ENQRETRY` while `MUX.ENQW` is
  none: the step is not enabled and stays with its source. SAFE: R242 demands it. -/
  | notEnabled
  /-- Raised by `step` for an event word that spells no event (R86). SAFE: a stimulus that holds one is not a run. -/
  | illFormedEvent
  /-- Raised by `step` when no agent offers a word. SAFE: R241 has no step without one. -/
  | noStimulus
  deriving DecidableEq, Repr

/-- The machine right after reset (spec/70_reset_and_hazards.md R281), with the default parameters of R7, nothing offered
and nothing recorded. `RBUF.MEM` and `MUX.TXQ` are unspecified there: their contents here are DESIGN CHOICES (log
entries 4 and 5). -/
def State.reset : State where
  cfg := Config.default
  ie := false
  evfFlags := 0x00#8
  schOvr := .w8 0
  rbufErr := .w8 0
  mtdRxcnt := .w16 0
  mtdErrcnt := .w8 0
  muxErr := .w8 0
  rbufR := 0
  rbufW := 0
  rbufMem := { cells := [] }
  schDiv := 0
  schTick := 0
  schGuard := false
  mtdGap := 0
  mtdT15 := 0x0000#16
  mtdT35 := 0xFFFF#16
  mtdPsc := 0
  muxTxq := Vector.replicate 8 { ch := 0, b := 0 }
  muxRpos := 0
  muxUsed := 0
  muxTxlow := none
  muxRxpend := none
  muxHen := Vector.replicate 8 false
  muxEnqw := none
  stimulus := []
  outputs := []

end Sys2Proof.Machine
end

