-- ==== Sys2Proof/Machine/Flags.lean ====
section
/-! DEFINITION. Flag computations: the event flags under a mask, the lowest set bit, the gap classification and the
three status bits of a Modbus byte. -/

namespace Sys2Proof.Machine

/-- The membership of a mask in the event flags: at least one named flag is pending (spec/41 R120). -/
def evfMember (flags m : BitVec 8) : Bool := (flags &&& m) != 0#8

/-- `EVF.FLAGS OR m` (R121). -/
def evfSetBits (flags m : BitVec 8) : BitVec 8 := flags ||| m

/-- `EVF.FLAGS AND (NOT m)`, `NOT` the 8-bit complement (R122). -/
def evfClearBits (flags m : BitVec 8) : BitVec 8 := flags &&& ~~~m

/-- `lsb_index(t)`: the position of the lowest set bit, tested from bit 0 upward; none for `t` = 0, where the spec leaves it
undefined and no rule uses it (spec/00_scope.md R13). -/
def lsbIndex (t : BitVec 8) : Option (Fin 8) :=
  if t.getLsbD 0 then some 0
  else if t.getLsbD 1 then some 1
  else if t.getLsbD 2 then some 2
  else if t.getLsbD 3 then some 3
  else if t.getLsbD 4 then some 4
  else if t.getLsbD 5 then some 5
  else if t.getLsbD 6 then some 6
  else if t.getLsbD 7 then some 7
  else none

/-- The classification of a gap by the two thresholds; both comparisons strict and unsigned (spec/44 R182). -/
def classify (g t15 t35 : Half) : GapClass :=
  if t35 < g then .newFrame
  else if t15 < g then .errorFrame
  else .continuation

/-- `uartError`: any of framing, overrun, parity (R184, R187). -/
def uartError (fe dor pe : Bool) : Bool := fe || dor || pe

/-- The three status conditions of a received byte: its gap's class, and the UART error (R184, R187). -/
def mbStatusOf (c : GapClass) (ue : Bool) : MbStatus where
  uartError := ue
  errFrame := c == .errorFrame
  newFrame := c == .newFrame

/-- The packed status code: bit 2 `newFrame`, bit 1 `errFrame`, bit 0 `uartError` (R187). -/
def MbStatus.code (st : MbStatus) : BitVec 3 :=
  BitVec.ofBool st.newFrame ++ BitVec.ofBool st.errFrame ++ BitVec.ofBool st.uartError

end Sys2Proof.Machine
end

