-- ==== Sys2Proof/Machine/Operands.lean ====
section
/-! DEFINITION. Operand forms: the counter index of `CNT.RD`, the fields of a physical transfer, and how results are
widened into the 16-bit `val` of a response. -/

namespace Sys2Proof.Machine

/-- The counter a `CNT.RD` index selects; 5..7 are reserved (spec/40_saturating_counters.md R111, R112). -/
def counterOfIdx (idx : BitVec 3) : Option CounterId :=
  if idx = 0#3 then some .schOvr
  else if idx = 1#3 then some .rbufErr
  else if idx = 2#3 then some .mtdRxcnt
  else if idx = 3#3 then some .mtdErrcnt
  else if idx = 4#3 then some .muxErr
  else none

/-- A value fits a width of `w` bits: no bit at or above `w` is set. An operand that does not fit the width its parameter
gives it (R7) names flags or register bits that are not there; at the default widths every operand fits (log entry 12). -/
def fitsWidth {n : Nat} (w : Nat) (v : BitVec n) : Bool := decide (v.toNat < 2 ^ w)

/-- `zext_16` of a byte (spec/00_scope.md R11, spec/20_memory.md R75). -/
def zext16 (b : Byte) : Half := b.setWidth 16

/-- A boolean result: 1 for true, 0 for false (spec/30_encoding.md R84). -/
def boolVal (p : Bool) : Half := if p then 1#16 else 0#16

/-- `zext_16` of a counter: its value in 16 bits (R112). -/
def Counter.value : Counter → Half
  | .w8 v => v.setWidth 16
  | .w16 v => v

/-- Bits 7:5 of a physical transfer: its channel (spec/45_mux_transport.md R201). -/
def xferCh (x : Byte) : Chan := x.extractLsb' 5 3

/-- Bit 4 of a physical transfer, the marker: 1 for a high transfer, 0 for a low one (R201). -/
def xferHigh (x : Byte) : Bool := x.getLsbD 4

/-- Bits 3:0 of a physical transfer: its nibble (R201). -/
def xferNib (x : Byte) : Nibble := x.extractLsb' 0 4

/-- `hi(ch, b) = {ch, 1, b[7:4]}`, the high transfer of a logical byte (R202). -/
def hiXfer (ch : Chan) (b : Byte) : Byte := ch ++ 1#1 ++ b.extractLsb' 4 4

/-- `lo(ch, b) = {ch, 0, b[3:0]}`, the low transfer of a logical byte (R202). -/
def loXfer (ch : Chan) (b : Byte) : Byte := ch ++ 0#1 ++ b.extractLsb' 0 4

/-- Reassembly `{h, l} = h × 16 + l` (R202). -/
def joinNibbles (h l : Nibble) : Byte := h ++ l

end Sys2Proof.Machine
end

