-- ==== Sys2Proof/Machine/Ops.lean ====
section
/-! DEFINITION. The named operations over registers, counters, storage and output record that the meanings share, with
the acceptance of a gated event (the block's only "trap entry", spec/60_exceptions.md R254) and the reset of the block. -/

namespace Sys2Proof.Machine

/-! ### Outputs -/

/-- `out A`: append an output action to the record (R11). -/
def State.emit (s : State) (o : Output) : State := { s with outputs := s.outputs ++ [o] }

/-- `rsp(st, val)`: the response of a command step (R11, R84). -/
def State.respond (s : State) (st : Status) (val : Half) : State := s.emit (.rsp st val)

/-- A command whose operands fit is its rule's step; else it answers `REFUSED` and changes nothing, as a word with a
reserved bit set does (R86; log entry 12). -/
def legalCommand (fits : Bool) (rule : State → State) (s : State) : Host.Outcome State Fault Refusal :=
  .next (if fits then rule s else s.respond .refused 0)

/-- The output actions a run from `s` to `t` added to the record. -/
def newOutputs (s t : State) : List Output := t.outputs.drop s.outputs.length

/-! ### Saturating counters -/

/-- `MAX` of a counter, `2^W - 1` (R12). -/
def Counter.max : Counter → Nat
  | .w8 _ => 255
  | .w16 _ => 65535

/-- The saturating increment `sat_inc_W` (R12, R110). -/
def Counter.inc : Counter → Counter
  | .w8 v => .w8 (if v = 255#8 then v else v + 1)
  | .w16 v => .w16 (if v = 65535#16 then v else v + 1)

/-- The counter at zero, its width kept (R114, R281). -/
def Counter.zeroed : Counter → Counter
  | .w8 _ => .w8 0
  | .w16 _ => .w16 0

/-- The counter an identifier names (R25). -/
def State.counter (s : State) : CounterId → Counter
  | .schOvr => s.schOvr
  | .rbufErr => s.rbufErr
  | .mtdRxcnt => s.mtdRxcnt
  | .mtdErrcnt => s.mtdErrcnt
  | .muxErr => s.muxErr

/-- `count(C)`: one saturating increment of counter `C` (R11, R110). -/
def State.count (s : State) : CounterId → State
  | .schOvr => { s with schOvr := s.schOvr.inc }
  | .rbufErr => { s with rbufErr := s.rbufErr.inc }
  | .mtdRxcnt => { s with mtdRxcnt := s.mtdRxcnt.inc }
  | .mtdErrcnt => { s with mtdErrcnt := s.mtdErrcnt.inc }
  | .muxErr => { s with muxErr := s.muxErr.inc }

/-! ### Storage -/

/-- The byte of cell `a` in a list of listed cells; an unlisted cell reads as `Config.unwrittenByte`. -/
def readCells : List Host.Cell → Nat → Byte
  | [], _ => Config.unwrittenByte
  | (k, v) :: rest, a => if a = k then v else readCells rest a

/-- A cell's entry in front of a list, left out when it is what an unlisted cell reads as. -/
def consCell (a : Nat) (v : Byte) (rest : List Host.Cell) : List Host.Cell :=
  if v = Config.unwrittenByte then rest else (a, v) :: rest

/-- The listed cells after `v` is stored in cell `a`: the canonical form is kept. -/
def writeCells : List Host.Cell → Nat → Byte → List Host.Cell
  | [], a, v => consCell a v []
  | (k, w) :: rest, a, v =>
    if a < k then consCell a v ((k, w) :: rest)
    else if a = k then consCell a v rest
    else (k, w) :: writeCells rest a v

/-- `MemRead(RBUF, a, 1)` (spec/20_memory.md R61). -/
def Memory.read (m : Memory) (a : Nat) : Byte := readCells m.cells a

/-- `MemWrite(RBUF, a, 1, v)` (R61). -/
def Memory.write (m : Memory) (a : Nat) (v : Byte) : Memory := { cells := writeCells m.cells a v }

/-- The canonical form: indices strictly rising, and no entry equal to what an unlisted cell reads as. -/
abbrev Memory.wf (m : Memory) : Prop :=
  m.cells.Pairwise (fun p q => p.1 < q.1) ∧ ∀ c ∈ m.cells, c.2 ≠ Config.unwrittenByte

/-- `RBUF.MEM[i]`; the space ends at N (R35, R61). -/
def State.rbufLoad (s : State) (i : Nat) : Option Byte :=
  if i < s.cfg.rbufSize then some (s.rbufMem.read i) else none

/-- `RBUF.MEM[i] <- v`; the space ends at N (R35, R61). -/
def State.rbufStore (s : State) (i : Nat) (v : Byte) : Option State :=
  if i < s.cfg.rbufSize then some { s with rbufMem := s.rbufMem.write i v } else none

/-- `MUX.TXQ[i]` (R29, R61). -/
def State.txqLoad (s : State) (i : BitVec 3) : TxEntry := s.muxTxq[i.toNat]'i.isLt

/-- `MUX.HEN[ch]` (R31, R61). -/
def State.henLoad (s : State) (ch : Chan) : Bool := s.muxHen[ch.toNat]'ch.isLt

/-- `MUX.HEN[ch] <- en` (R209). -/
def State.henStore (s : State) (ch : Chan) (en : Bool) : State :=
  { s with muxHen := s.muxHen.set ch.toNat en ch.isLt }

/-! ### The receive buffer -/

/-- A receive-buffer index one slot on: `(i + 1) mod N` (R62). -/
def State.rbufNext (s : State) (i : BitVec 8) : Nat := (i.toNat + 1) % s.cfg.rbufSize

/-- The number of bytes held, `(RBUF.W - RBUF.R) mod N` (R26, R144); for `RBUF.R` < N the sum below is not cut off. -/
def State.rbufHeld (s : State) : Nat :=
  (s.rbufW.toNat + s.cfg.rbufSize - s.rbufR.toNat) % s.cfg.rbufSize

/-- A push would find the buffer full (R26, R141). -/
def State.rbufFull (s : State) : Bool := s.rbufNext s.rbufW == s.rbufR.toNat

/-- `rbuf_push(b)`, used by `RBUF.PUSH` and `EV.CONRX` (spec/42_ring_buffer.md R141). -/
def rbufPush (b : Byte) (s : State) : Host.Outcome State Fault Refusal :=
  if s.rbufFull then
    match s.rbufStore s.rbufW.toNat 0x00#8 with
    | none => .fault .rbufIndexOutside
    | some s' => .next (s'.count .rbufErr)
  else
    match s.rbufStore s.rbufW.toNat b with
    | none => .fault .rbufIndexOutside
    | some s' => .next { s' with rbufW := BitVec.ofNat 8 (s.rbufNext s.rbufW) }

/-! ### The transport -/

/-- The transmit queue has room: `MUX.USED < 8` (R204). -/
def State.txqRoom (s : State) : Bool := decide (s.muxUsed < 8#4)

/-- The queue's write position, `(MUX.RPOS + MUX.USED) mod 8` (R29). -/
def State.txqWpos (s : State) : BitVec 3 := BitVec.ofNat 3 (s.muxRpos.toNat + s.muxUsed.toNat)

/-- `txq_store(ch, b)`, used only when the queue has room (spec/45_mux_transport.md R203). -/
def txqStore (ch : Chan) (b : Byte) (s : State) : State :=
  { s with
    muxTxq := s.muxTxq.set s.txqWpos.toNat { ch := ch, b := b } s.txqWpos.isLt
    muxUsed := s.muxUsed + 1 }

/-- `link_tx()`: the transmit half of a link event (R207). -/
def linkTx (s : State) : State :=
  match s.muxTxlow with
  | some l => { s with muxTxlow := none }.emit (.linkTx l)
  | none =>
    if 0#4 < s.muxUsed then
      let e := s.txqLoad s.muxRpos
      { s with
        muxTxlow := some (loXfer e.ch e.b)
        muxRpos := s.muxRpos + 1
        muxUsed := s.muxUsed - 1 }.emit (.linkTx (hiXfer e.ch e.b))
    else s.emit (.linkTx s.cfg.txIdle)

/-- The high-transfer case of `link_rx(x)`: a stale pending nibble counts an error, the new one is kept (R208). -/
def linkRxHigh (x : Byte) (s : State) : State :=
  let t := if s.muxRxpend.isSome then s.count .muxErr else s
  { t with muxRxpend := some { ch := xferCh x, nib := xferNib x } }

/-- The low-transfer case of `link_rx(x)`: a byte is delivered only from a matching pair (R208). -/
def linkRxLow (x : Byte) (s : State) : State :=
  match s.muxRxpend with
  | none => s.count .muxErr
  | some p =>
    if p.ch ≠ xferCh x then { s.count .muxErr with muxRxpend := none }
    else if s.henLoad (xferCh x) then
      { s with muxRxpend := none }.emit (.chDeliver (xferCh x) (joinNibbles p.nib (xferNib x)))
    else { s with muxRxpend := none }

/-- `link_rx(x)`: the receive half of a link event (R208). -/
def linkRx (x : Byte) (s : State) : State :=
  if xferHigh x then linkRxHigh x s else linkRxLow x s

/-- The end of a blocking enqueue's wait: the register is emptied, `IE` restored by value, the result reported (R205). -/
def endWait (w : EnqWait) (st : Status) (s : State) : State :=
  { s with muxEnqw := none, ie := w.sie }.emit (.enqResult st)

/-! ### Acceptance, return, reset -/

/-- Acceptance of a gated event, the block's "trap entry" (R254): with `IE` = 1 the event's whole rule is applied to the
state, nothing is saved and `IE` stays 1; with `IE` = 0 the event is not enabled and stays with its source (R40, R242). -/
def acceptGated (rule : State → Host.Outcome State Fault Refusal) (s : State) : Host.Outcome State Fault Refusal :=
  if s.ie then rule s else .refused .notEnabled

/-- The return of a hook, the only return the block sees: it clears `SCH.GUARD` and nothing else (R257). -/
def hookReturn (s : State) : State := { s with schGuard := false }

/-- The reset step: every register at its reset value, `MTD.T35` at its largest (0xFFFF for `GAP_W` = 16); `RBUF.MEM` and
`MUX.TXQ` are not written (R281). -/
def resetBlock (s : State) : State :=
  { s with
    ie := false
    evfFlags := 0x00#8
    schOvr := s.schOvr.zeroed
    rbufErr := s.rbufErr.zeroed
    mtdRxcnt := s.mtdRxcnt.zeroed
    mtdErrcnt := s.mtdErrcnt.zeroed
    muxErr := s.muxErr.zeroed
    rbufR := 0
    rbufW := 0
    schDiv := 0
    schTick := 0
    schGuard := false
    mtdGap := 0
    mtdT15 := 0x0000#16
    mtdT35 := BitVec.ofNat 16 s.cfg.gapMax
    mtdPsc := 0
    muxRpos := 0
    muxUsed := 0
    muxTxlow := none
    muxRxpend := none
    muxHen := Vector.replicate 8 false
    muxEnqw := none }

/-! ### The offered words -/

/-- The next word the agents offer, and the state without it (R70: words are taken in the order presented). -/
def nextWord (s : State) : Option (Word × State) :=
  match s.stimulus with
  | [] => none
  | w :: rest => some (w, { s with stimulus := rest })

end Sys2Proof.Machine
end

