-- ==== Sys2Proof/Machine/Evf.lean ====
section
/-! DEFINITION. Unit EVF (spec/41_event_flags_critical_section.md section 1): `EVF.SET`, `EVF.CLR`, `EVF.TST`.
A mask names flags below `EVF_W` (R7); with the default 8 every mask does. -/

namespace Sys2Proof.Machine

/-- `EVF.SET m`: sets the named flags and reports whether any of them was pending before (R121). -/
def execEvfSet (m : Byte) (s : State) : Host.Outcome State Fault Refusal :=
  legalCommand (fitsWidth s.cfg.evfW m)
    (fun t => { t with evfFlags := evfSetBits t.evfFlags m }.respond .ok (boolVal (evfMember t.evfFlags m))) s

/-- `EVF.CLR m`: clears the named flags and reports whether any of them was pending before (R122). -/
def execEvfClr (m : Byte) (s : State) : Host.Outcome State Fault Refusal :=
  legalCommand (fitsWidth s.cfg.evfW m)
    (fun t => { t with evfFlags := evfClearBits t.evfFlags m }.respond .ok (boolVal (evfMember t.evfFlags m))) s

/-- `EVF.TST m`: reports whether any named flag is pending; changes nothing (R123). -/
def execEvfTst (m : Byte) (s : State) : Host.Outcome State Fault Refusal :=
  legalCommand (fitsWidth s.cfg.evfW m) (fun t => t.respond .ok (boolVal (evfMember t.evfFlags m))) s

end Sys2Proof.Machine
end

