-- ==== Sys2Proof/Machine/Ien.lean ====
section
/-! DEFINITION. Unit IEN (spec/41_event_flags_critical_section.md section 2): the critical section over `IE`. -/

namespace Sys2Proof.Machine

/-- `IEN.ENTER`: clears `IE` and returns the value it had (R125). -/
def execIenEnter (s : State) : Host.Outcome State Fault Refusal :=
  .next ({ s with ie := false }.respond .ok (boolVal s.ie))

/-- `IEN.EXIT s`: puts back the saved value (R126). -/
def execIenExit (saved : Bool) (s : State) : Host.Outcome State Fault Refusal :=
  .next ({ s with ie := saved }.respond .ok 0)

/-- `IEN.ON`: enables event delivery unconditionally (R127). -/
def execIenOn (s : State) : Host.Outcome State Fault Refusal :=
  .next ({ s with ie := true }.respond .ok 0)

end Sys2Proof.Machine
end

