-- ==== Sys2Proof/Machine/Mtd.lean ====
section
/-! DEFINITION. Unit MTD (spec/44_modbus_timing_detector.md): gap timer, thresholds and byte classification. -/

namespace Sys2Proof.Machine

/-- Both thresholds and the prescaler select written in one step and the select presented, or `BADARG` when
`t35 ≤ t15` (R183). -/
def setThresholds (t15 t35 : Half) (psc : BitVec 3) (s : State) : State :=
  if t35 ≤ t15 then s.respond .badarg 0
  else ({ s with mtdT15 := t15, mtdT35 := t35, mtdPsc := psc }.emit (.pscSel psc)).respond .ok 0

/-- `MTD.SETTHR t15, t35, psc`: writes both thresholds and the prescaler select in one step, or answers `BADARG` and
changes nothing when `t35 ≤ t15` (R183). The operands are within `GAP_W` and `PSC_W` (R7); by default all are. -/
def execMtdSetthr (t15 t35 : Half) (psc : BitVec 3) (s : State) : Host.Outcome State Fault Refusal :=
  legalCommand (fitsWidth s.cfg.gapW t15 && fitsWidth s.cfg.gapW t35 && fitsWidth s.cfg.pscW psc)
    (setThresholds t15 t35 psc) s

/-- `MTD.RDGAP`: the gap timer as one snapshot (R185). -/
def execMtdRdgap (s : State) : Host.Outcome State Fault Refusal :=
  .next (s.respond .ok s.mtdGap)

/-- `EV.GAPTICK`: one count of the gap timer, which stops at `2^GAP_W - 1`, by default 0xFFFF; never gated (R181). -/
def execEvGaptick (s : State) : Host.Outcome State Fault Refusal :=
  if s.mtdGap.toNat < s.cfg.gapMax then .next { s with mtdGap := s.mtdGap + 1 } else .next s

/-- One received Modbus byte: the gap is captured and restarted, exactly one of the two counters counts, and the byte is
delivered with its three status conditions (R184). -/
def mbReceive (data : Byte) (ue : Bool) (s : State) : State :=
  let c := classify s.mtdGap s.mtdT15 s.mtdT35
  (State.count { s with mtdGap := 0 } (if ue then .mtdErrcnt else .mtdRxcnt)).emit
    (.mbDeliver data (mbStatusOf c ue))

/-- `EV.MBRX data, fe, dor, pe`, gated by `IE` (R184). -/
def execEvMbrx (data : Byte) (fe dor pe : Bool) (s : State) : Host.Outcome State Fault Refusal :=
  acceptGated (fun t => .next (mbReceive data (uartError fe dor pe) t)) s

end Sys2Proof.Machine
end

