-- ==== Sys2Proof/Machine/Mux.lean ====
section
/-! DEFINITION. Unit MUX (spec/45_mux_transport.md): the channel-multiplexed transport. -/

namespace Sys2Proof.Machine

/-- `MUX.ENQ ch, b, blk`: queues one logical byte; a full queue fails a non-blocking enqueue and, while a wait is open, a
blocking one; else the blocking enqueue starts to wait with `IE` saved and set (R204). -/
def execMuxEnq (ch : Chan) (b : Byte) (blk : Bool) (s : State) : Host.Outcome State Fault Refusal :=
  if s.txqRoom then .next ((txqStore ch b s).respond .ok 0)
  else if !blk then .next ((s.count .muxErr).respond .full 0)
  else if s.muxEnqw.isSome then .next ((s.count .muxErr).respond .full 0)
  else
    .next ({ s with
      muxEnqw := some { ch := ch, b := b, left := s.cfg.enqRetryBudget, sie := s.ie }
      ie := true }.respond .wait 0)

/-- `MUX.REG ch, en`: fills or empties one slot of the receive-handler table (R209). -/
def execMuxReg (ch : Chan) (en : Bool) (s : State) : Host.Outcome State Fault Refusal :=
  .next ((s.henStore ch en).respond .ok 0)

/-- `EV.LINK rx`: one completed physical transfer; the transmit half, then the receive half; gated by `IE` (R206). -/
def execEvLink (rx : Byte) (s : State) : Host.Outcome State Fault Refusal :=
  acceptGated (fun t => .next (linkRx rx (linkTx t))) s

/-- One poll of the waiting enqueue `w` (R205). -/
def enqPoll (w : EnqWait) (s : State) : State :=
  if s.txqRoom then endWait w .ok (txqStore w.ch w.b s)
  else if w.left = 1 then endWait w .full (s.count .muxErr)
  else { s with muxEnqw := some { w with left := w.left - 1 } }

/-- `EV.ENQRETRY`: one turn of the waiting enqueue's spin; enabled only while a wait is open, not gated by `IE` (R205). -/
def execEvEnqretry (s : State) : Host.Outcome State Fault Refusal :=
  match s.muxEnqw with
  | none => .refused .notEnabled
  | some w => .next (enqPoll w s)

end Sys2Proof.Machine
end

