-- ==== Sys2Proof/Machine/Rbuf.lean ====
section
/-! DEFINITION. Unit RBUF (spec/42_ring_buffer.md): the receive buffer's commands and `EV.CONRX`. -/

namespace Sys2Proof.Machine

/-- `RBUF.PUSH b`: `rbuf_push(b)`, then `OK` whether or not the byte was dropped (R142). -/
def execRbufPush (b : Byte) (s : State) : Host.Outcome State Fault Refusal :=
  match rbufPush b s with
  | .next t => .next (t.respond .ok 0)
  | .fault r => .fault r
  | .refused r => .refused r

/-- `RBUF.POP`: removes and returns the oldest byte, or answers `EMPTY` (R143). -/
def execRbufPop (s : State) : Host.Outcome State Fault Refusal :=
  if s.rbufR = s.rbufW then .next (s.respond .empty 0)
  else
    match s.rbufLoad s.rbufR.toNat with
    | none => .fault .rbufIndexOutside
    | some v => .next ({ s with rbufR := BitVec.ofNat 8 (s.rbufNext s.rbufR) }.respond .ok (zext16 v))

/-- `RBUF.AVAIL`: the number of bytes held (R144). -/
def execRbufAvail (s : State) : Host.Outcome State Fault Refusal :=
  .next (s.respond .ok (BitVec.ofNat 16 s.rbufHeld))

/-- `RBUF.PEEK off`: the byte `off` places after the oldest, or `RANGE` (R145). -/
def execRbufPeek (off : Byte) (s : State) : Host.Outcome State Fault Refusal :=
  if s.rbufHeld ≤ off.toNat then .next (s.respond .range 0)
  else
    match s.rbufLoad ((s.rbufR.toNat + off.toNat) % s.cfg.rbufSize) with
    | none => .fault .rbufIndexOutside
    | some v => .next (s.respond .ok (zext16 v))

/-- `RBUF.FLUSH`: has the console receiver drained, zeroes both indices and the error counter; the storage is not
touched (R147). -/
def execRbufFlush (s : State) : Host.Outcome State Fault Refusal :=
  .next ({ s.emit .conDrain with rbufR := 0, rbufW := 0, rbufErr := s.rbufErr.zeroed }.respond .ok 0)

/-- `EV.CONRX data`: the console receiver delivers one byte; `rbuf_push(data)`, gated by `IE`, no output (R146). -/
def execEvConrx (data : Byte) (s : State) : Host.Outcome State Fault Refusal :=
  acceptGated (rbufPush data) s

end Sys2Proof.Machine
end

