-- ==== Sys2Proof/Machine/Reset.lean ====
section
/-! DEFINITION. The reset step `EV.RESET` (spec/70_reset_and_hazards.md). -/

namespace Sys2Proof.Machine

/-- `EV.RESET`: the same step from every state, no output action, never refused (R281). -/
def execEvReset (s : State) : Host.Outcome State Fault Refusal :=
  .next (resetBlock s)

end Sys2Proof.Machine
end

