-- ==== Sys2Proof/Machine/Satcnt.lean ====
section
/-! DEFINITION. Unit SATCNT (spec/40_saturating_counters.md): the read command `CNT.RD`. -/

namespace Sys2Proof.Machine

/-- `CNT.RD idx`: reads one counter, changes nothing; an index of 5..7 is illegal and answers `REFUSED` (R112). -/
def execCntRd (idx : BitVec 3) (s : State) : Host.Outcome State Fault Refusal :=
  match counterOfIdx idx with
  | some c => .next (s.respond .ok (s.counter c).value)
  | none => .next (s.respond .refused 0)

end Sys2Proof.Machine
end

