-- ==== Sys2Proof/Machine/Sch.lean ====
section
/-! DEFINITION. Unit SCH (spec/43_scheduler.md): the base tick and the hook's return. -/

namespace Sys2Proof.Machine

/-- A scheduler tick, after `SCH.DIV` returned to 0: the tick counter advances; a busy guard counts an overrun, else the
hook of the counter's lowest set bit fires; no bit set, no hook (R162, R166). -/
def schedTick (s : State) : State :=
  let t := { s with schTick := s.schTick + 1 }
  if t.schGuard then t.count .schOvr
  else
    match lsbIndex t.schTick with
    | some k => { t with schGuard := true }.emit (.hookFire k)
    | none => t

/-- One accepted base tick: every fifth is a scheduler tick (R161, R162). -/
def baseTick (s : State) : State :=
  if s.schDiv < 4#3 then { s with schDiv := s.schDiv + 1 }
  else schedTick { s with schDiv := 0 }

/-- `EV.BASETICK`, gated by `IE` (R162). -/
def execEvBasetick (s : State) : Host.Outcome State Fault Refusal :=
  acceptGated (fun t => .next (baseTick t)) s

/-- `EV.HOOKDONE`: the dispatched hook has returned; never gated (R164). -/
def execEvHookdone (s : State) : Host.Outcome State Fault Refusal :=
  .next (hookReturn s)

end Sys2Proof.Machine
end

