-- ==== Sys2Proof/Machine/Dispatch.lean ====
section
/-! DEFINITION. The dispatch: one arm per operation, each one direct call of its meaning. -/

namespace Sys2Proof.Machine

def exec (i : Instr) (s : State) : Host.Outcome State Fault Refusal :=
  match i with
  | .ienEnter => Sys2Proof.Machine.execIenEnter s
  | .ienExit saved => Sys2Proof.Machine.execIenExit saved s
  | .ienOn => Sys2Proof.Machine.execIenOn s
  | .cntRd idx => Sys2Proof.Machine.execCntRd idx s
  | .evfSet m => Sys2Proof.Machine.execEvfSet m s
  | .evfClr m => Sys2Proof.Machine.execEvfClr m s
  | .evfTst m => Sys2Proof.Machine.execEvfTst m s
  | .rbufPush b => Sys2Proof.Machine.execRbufPush b s
  | .rbufPop => Sys2Proof.Machine.execRbufPop s
  | .rbufAvail => Sys2Proof.Machine.execRbufAvail s
  | .rbufPeek off => Sys2Proof.Machine.execRbufPeek off s
  | .rbufFlush => Sys2Proof.Machine.execRbufFlush s
  | .mtdSetthr t15 t35 psc => Sys2Proof.Machine.execMtdSetthr t15 t35 psc s
  | .mtdRdgap => Sys2Proof.Machine.execMtdRdgap s
  | .muxEnq ch b blk => Sys2Proof.Machine.execMuxEnq ch b blk s
  | .muxReg ch en => Sys2Proof.Machine.execMuxReg ch en s
  | .evBasetick => Sys2Proof.Machine.execEvBasetick s
  | .evHookdone => Sys2Proof.Machine.execEvHookdone s
  | .evGaptick => Sys2Proof.Machine.execEvGaptick s
  | .evMbrx data fe dor pe => Sys2Proof.Machine.execEvMbrx data fe dor pe s
  | .evConrx data => Sys2Proof.Machine.execEvConrx data s
  | .evLink rx => Sys2Proof.Machine.execEvLink rx s
  | .evEnqretry => Sys2Proof.Machine.execEvEnqretry s
  | .evReset => Sys2Proof.Machine.execEvReset s

end Sys2Proof.Machine
end

