-- ==== Sys2Proof/Machine/Accept.lean ====
section
/-! DEFINITION. How a presented word becomes a step: command words on the command port, event words from the event ports
(spec/30_encoding.md R80, R86; spec/10_state.md R40, R41). -/

namespace Sys2Proof.Machine

/-- A word on the command port: a legal command word is its command's step; every other word, each one with `OPC[7]` = 1
included, is illegal and answers `REFUSED` with no other change (R41, R86). -/
def presentCommand (w : Word) (s : State) : Host.Outcome State Fault Refusal :=
  if isEventWord w then .next (s.respond .refused 0)
  else
    match decode w with
    | .ok i => exec i s
    | .error _ => .next (s.respond .refused 0)

/-- An event word, the notation of one accepted strobe: its step, or no step where it spells no event (R86, R87). -/
def takeEvent (w : Word) (s : State) : Host.Outcome State Fault Refusal :=
  match decode w with
  | .ok i => exec i s
  | .error _ => .refused .illFormedEvent

/-- One word of a stimulus program: `OPC[7]` says whether it is an event word or a command word (R16, R80). -/
def takeWord (w : Word) (s : State) : Host.Outcome State Fault Refusal :=
  if isEventWord w then takeEvent w s else presentCommand w s

end Sys2Proof.Machine
end

