-- ==== Sys2Proof/Machine/Step.lean ====
section
/-! DEFINITION. The step: the next word the agents offer is taken and its step is applied (spec/60_exceptions.md R240,
R241). There is no program counter and no fetch (R22); a stimulus program (R16) stands in the place of the program. -/

namespace Sys2Proof.Machine

/-- One step of the block: the next offered word, removed from the offer, takes its step. With no word offered there is
no step (R241). -/
def step (s : State) : Host.Outcome State Fault Refusal :=
  match nextWord s with
  | none => .refused .noStimulus
  | some (w, t) => takeWord w t

/-- The state in which the table's word `w` of `nbits` bits is the next word offered, in front of whatever was offered. -/
def State.withFetchWord (s : State) (nbits w : Nat) : State :=
  { s with stimulus := BitVec.ofNat 48 (w % 2 ^ nbits) :: s.stimulus }

end Sys2Proof.Machine
end

