-- ==== Sys2Proof/Machine/Ports.lean ====
section
/-! DEFINITION. The outputs as words and pins: status codes and the 24-bit response word (spec/30_encoding.md R84, R85),
and the signal-level rendering of the output ports (spec/10_state.md R42, R43), on which no rule depends. -/

namespace Sys2Proof.Machine

/-- The status code `st` (R85). -/
def Status.code : Status → BitVec 8
  | .ok => 0x00#8
  | .empty => 0x01#8
  | .range => 0x02#8
  | .full => 0x03#8
  | .wait => 0x04#8
  | .badarg => 0x05#8
  | .refused => 0xFF#8

/-- The response word of `RSP_W` bits, 24 (R7): `st` in bits 23:16, `val` in bits 15:0 (R84). -/
def rspWord (rspW : Nat) (st : Status) (val : Half) : BitVec rspW := (st.code ++ val).setWidth rspW

/-- The output pins of R43; a value with its `valid` pin is an Option. -/
structure PortsOut (rspW : Nat) where
  /-- `rsp_valid`, `rsp_word[RSP_W-1:0]` -/
  rsp : Option (BitVec rspW)
  /-- `basetick_ready`, `mbrx_ready`, `conrx_ready`, `link_ready`: each equal to `IE` -/
  ready : Bool
  /-- `hook_fire[7:0]`, a one-hot pulse -/
  hookFire : BitVec 8
  /-- `mb_valid`, `mb_data[7:0]`, `mb_status[2:0]` -/
  mb : Option (Byte × BitVec 3)
  /-- `ch_valid`, `ch_num[2:0]`, `ch_data[7:0]` -/
  ch : Option (Chan × Byte)
  /-- `link_tx_valid`, `link_tx[7:0]` -/
  linkTx : Option Byte
  /-- `enq_done_valid`, `enq_done_st[7:0]` -/
  enqDone : Option (BitVec 8)
  /-- `con_drain` -/
  conDrain : Bool
  /-- `psc_sel[2:0]`, a level equal to `MTD.PSC` -/
  pscSel : BitVec 3
  deriving DecidableEq, Repr

/-- The pins with no output action yet: the levels of a state. -/
def portLevels (s : State) : PortsOut s.cfg.rspW where
  rsp := none
  ready := s.ie
  hookFire := 0#8
  mb := none
  ch := none
  linkTx := none
  enqDone := none
  conDrain := false
  pscSel := s.mtdPsc

/-- One output action on the pins (R42, R43). `PscSel` shows as the level, not as a pulse. -/
def driveOutput {rspW : Nat} (p : PortsOut rspW) : Output → PortsOut rspW
  | .rsp st val => { p with rsp := some (rspWord rspW st val) }
  | .hookFire k => { p with hookFire := p.hookFire ||| (1#8 <<< k.val) }
  | .mbDeliver data st => { p with mb := some (data, st.code) }
  | .chDeliver ch b => { p with ch := some (ch, b) }
  | .linkTx b => { p with linkTx := some b }
  | .enqResult st => { p with enqDone := some st.code }
  | .conDrain => { p with conDrain := true }
  | .pscSel _ => p

/-- The pins after a step, or after the steps of one clock, that emitted `os` and left the state `s` (R43). -/
def portsOf (s : State) (os : List Output) : PortsOut s.cfg.rspW := os.foldl driveOutput (portLevels s)

end Sys2Proof.Machine
end

