-- ==== Sys2Proof/Machine/Pseudo.lean ====
section
/-! DEFINITION. The written form of a word and the twelve pseudo-instructions with their expansions (spec/30_encoding.md
R88, R89; spec/44_modbus_timing_detector.md R186). Assembler only: no step of the block reads any of it. -/

namespace Sys2Proof.Machine

/-- A field in the written form: decimal (R88). -/
def decimal (n : Nat) (v : BitVec n) : String := Nat.repr v.toNat

/-- A one-bit field in the written form. -/
def decimalBit (p : Bool) : String := if p then "1" else "0"

/-- The operands in the written form, in the order of R83's mnemonic column (R88). -/
def assemblyOperands : Instr → List String
  | .ienEnter => []
  | .ienExit saved => [decimalBit saved]
  | .ienOn => []
  | .cntRd idx => [decimal 3 idx]
  | .evfSet m => [decimal 8 m]
  | .evfClr m => [decimal 8 m]
  | .evfTst m => [decimal 8 m]
  | .rbufPush b => [decimal 8 b]
  | .rbufPop => []
  | .rbufAvail => []
  | .rbufPeek off => [decimal 8 off]
  | .rbufFlush => []
  | .mtdSetthr t15 t35 psc => [decimal 16 t15, decimal 16 t35, decimal 3 psc]
  | .mtdRdgap => []
  | .muxEnq ch b blk => [decimal 3 ch, decimal 8 b, decimalBit blk]
  | .muxReg ch en => [decimal 3 ch, decimalBit en]
  | .evBasetick => []
  | .evHookdone => []
  | .evGaptick => []
  | .evMbrx data fe dor pe => [decimal 8 data, decimalBit fe, decimalBit dor, decimalBit pe]
  | .evConrx data => [decimal 8 data]
  | .evLink rx => [decimal 8 rx]
  | .evEnqretry => []
  | .evReset => []

/-- The written form of a word: the mnemonic, then its operands separated by commas (R88). -/
def assembly (i : Instr) : String :=
  match assemblyOperands i with
  | [] => i.mnemonic
  | ops => i.mnemonic ++ " " ++ String.intercalate ", " ops

/-- The pseudo-instructions of R89. `CRIT` carries the value its `IEN.ENTER` returns, which its `IEN.EXIT` puts back. -/
inductive Pseudo where
  | ienOff
  | crit (saved : Bool) (body : List Instr)
  | evfSetb (k : Fin 8)
  | evfClrb (k : Fin 8)
  | evfTstb (k : Fin 8)
  | muxEnqn (ch : Chan) (b : Byte)
  | muxEnqb (ch : Chan) (b : Byte)
  | muxUnreg (ch : Chan)
  | mtdSetbaud (tpb : Nat) (psc : BitVec 3)
  | evSchedtick
  | evGap (n : Nat)
  | evLinkpair (ch : Chan) (b : Byte)
  deriving DecidableEq, Repr

/-- The mask of one flag, `1 << i` (R89). -/
def oneFlag (k : Fin 8) : Byte := 1#8 <<< k.val

/-- `threshold_1_5 = floor(33 × tpb / 2)`, 1.5 characters of 11 bit-times (R186). -/
def threshold15 (tpb : Nat) : Nat := 33 * tpb / 2

/-- `threshold_3_5 = floor(77 × tpb / 2)`, 3.5 characters of 11 bit-times (R186). -/
def threshold35 (tpb : Nat) : Nat := 77 * tpb / 2

/-- `timerTicksPerBit(B)` = `F_GAPTICK / B` for a prescaler select, the integer `tpb` (R186). That the quotient is cut to
an integer by rounding down is the model's: DESIGN CHOICE (log entry 20); R186 and D18 round only the products. -/
def timerTicksPerBit (psc : BitVec 3) (baud : Nat) : Nat := Config.fGapTick psc / baud

/-- The words a pseudo-instruction stands for; none where it is not legal (R89). -/
def expand : Pseudo → Option (List Instr)
  | .ienOff => some [.ienEnter]
  | .crit saved body => some ([.ienEnter] ++ body ++ [.ienExit saved])
  | .evfSetb k => some [.evfSet (oneFlag k)]
  | .evfClrb k => some [.evfClr (oneFlag k)]
  | .evfTstb k => some [.evfTst (oneFlag k)]
  | .muxEnqn ch b => some [.muxEnq ch b false]
  | .muxEnqb ch b => some [.muxEnq ch b true]
  | .muxUnreg ch => some [.muxReg ch false]
  | .mtdSetbaud tpb psc =>
    if 1 ≤ tpb ∧ tpb ≤ 1702 then
      some [.mtdSetthr (BitVec.ofNat 16 (threshold15 tpb)) (BitVec.ofNat 16 (threshold35 tpb)) psc]
    else none
  | .evSchedtick => some (List.replicate 5 .evBasetick)
  | .evGap n => some (List.replicate n .evGaptick)
  | .evLinkpair ch b =>
    some [.evLink ((ch.setWidth 8 <<< 5) ||| 0x10#8 ||| (b >>> 4)), .evLink ((ch.setWidth 8 <<< 5) ||| (b &&& 0x0F#8))]

end Sys2Proof.Machine
end

