-- ==== Sys2Proof/Machine/Agents.lean ====
section
/-! DEFINITION. Who takes each step and when it is enabled (spec/00_scope.md R8, spec/60_exceptions.md R241). -/

namespace Sys2Proof.Machine

/-- The agents of the block (R8), the reset input among them (R241). -/
inductive Agent where
  | host
  | ticksrc
  | hook
  | gapclk
  | mbuart
  | conuart
  | link
  | enqw
  | resetInput
  deriving DecidableEq, Repr

/-- The agent that takes each step (R241). -/
def agentOf : Instr → Agent
  | .evBasetick => .ticksrc
  | .evHookdone => .hook
  | .evGaptick => .gapclk
  | .evMbrx _ _ _ _ => .mbuart
  | .evConrx _ => .conuart
  | .evLink _ => .link
  | .evEnqretry => .enqw
  | .evReset => .resetInput
  | .ienEnter => .host
  | .ienExit _ => .host
  | .ienOn => .host
  | .cntRd _ => .host
  | .evfSet _ => .host
  | .evfClr _ => .host
  | .evfTst _ => .host
  | .rbufPush _ => .host
  | .rbufPop => .host
  | .rbufAvail => .host
  | .rbufPeek _ => .host
  | .rbufFlush => .host
  | .mtdSetthr _ _ _ => .host
  | .mtdRdgap => .host
  | .muxEnq _ _ _ => .host
  | .muxReg _ _ => .host

/-- The steps of the environment and of the block's own waiter: event words, `OPC[7]` = 1 (R80). -/
def isEvent (i : Instr) : Bool := agentOf i != .host

/-- The gated events: the base tick, the two received bytes and the link (R40, R247). -/
def isGated (i : Instr) : Bool :=
  match agentOf i with
  | .ticksrc => true
  | .mbuart => true
  | .conuart => true
  | .link => true
  | .host => false
  | .hook => false
  | .gapclk => false
  | .enqw => false
  | .resetInput => false

/-- When a step is enabled (the table of R241): a gated event while `IE` = 1, `EV.ENQRETRY` while a wait is open, every
other step always. -/
def enabled (i : Instr) (s : State) : Bool :=
  if isGated i then s.ie
  else if agentOf i = .enqw then s.muxEnqw.isSome
  else true

end Sys2Proof.Machine
end

