-- ==== Sys2Proof/Machine/Clock.lean ====
section
/-! DEFINITION. A clocked implementation: the strobes of one clock are taken as atomic steps in the fixed order of
spec/60_exceptions.md R252, on the input pins of spec/10_state.md R43. One of the interleavings of R250. -/

namespace Sys2Proof.Machine

/-- The payload of an `EV.MBRX` strobe (R40). -/
structure MbRx where
  data : Byte
  fe : Bool
  dor : Bool
  pe : Bool
  deriving DecidableEq, Repr

/-- The strobes of one clock (R43); a strobe with a payload is an Option. `enqPoll` is the waiter's own turn. -/
structure Strobes where
  rst : Bool := false
  hookDone : Bool := false
  gapTick : Bool := false
  mbrx : Option MbRx := none
  link : Option Byte := none
  conrx : Option Byte := none
  baseTick : Bool := false
  enqPoll : Bool := false
  cmd : Option Word := none
  deriving DecidableEq, Repr

/-- The event steps of a clock without reset, in the order (1) to (7) of R252. -/
def Strobes.events (k : Strobes) : List Instr :=
  (if k.hookDone then [.evHookdone] else []) ++
  (if k.gapTick then [.evGaptick] else []) ++
  (k.mbrx.toList.map fun m => .evMbrx m.data m.fe m.dor m.pe) ++
  (k.link.toList.map fun rx => .evLink rx) ++
  (k.conrx.toList.map fun d => .evConrx d) ++
  (if k.baseTick then [.evBasetick] else []) ++
  (if k.enqPoll then [.evEnqretry] else [])

/-- Take the events in order, each in its turn if it is enabled then; a gated one that is not stays held at its source and is
handed back (R252, R249). -/
def clockEvents : List Instr → State → Host.Outcome (State × List Instr) Fault Refusal
  | [], s => .next (s, [])
  | i :: rest, s =>
    if enabled i s then
      match exec i s with
      | .next t => clockEvents rest t
      | .fault r => .fault r
      | .refused r => .refused r
    else
      match clockEvents rest s with
      | .next (t, held) => .next (t, if isGated i then i :: held else held)
      | .fault r => .fault r
      | .refused r => .refused r

/-- What the sources still hold after a step from `s` to `t`: on `ConDrain` the console receiver discards every byte it
holds (spec/42_ring_buffer.md R147, R247: cleared by acceptance, or `ConDrain`). -/
def stillHeld (s t : State) (held : List Instr) : List Instr :=
  if .conDrain ∈ newOutputs s t then held.filter fun i => agentOf i != .conuart else held

/-- One clock: reset cancels every other strobe; else the events, then the command word last (R252). The answer is the state
after the clock and the gated events still held at their sources. That a clock with reset hands back none of its strobes as
held is the model's: DESIGN CHOICE (log entry 21); R252 cancels the strobes, and spec/70_reset_and_hazards.md R284 leaves the
events held at the sources to the platform. -/
def clock (k : Strobes) (s : State) : Host.Outcome (State × List Instr) Fault Refusal :=
  if k.rst then clockEvents [.evReset] s
  else
    match clockEvents k.events s with
    | .next (t, held) =>
      match k.cmd with
      | none => .next (t, held)
      | some w =>
        match presentCommand w t with
        | .next u => .next (u, stillHeld t u held)
        | .fault r => .fault r
        | .refused r => .refused r
    | .fault r => .fault r
    | .refused r => .refused r

end Sys2Proof.Machine
end

