-- ==== Sys2Proof/Safety.lean ====
section
/-! DEFINITION. What a legal state and a safe run of the block are, and the views of its storage in which claims speak:
the invariant of spec/10_state.md R45, well-formed traces (R242), the bytes the queues hold, and states that differ only
in storage no operation can observe (R37). -/

namespace Sys2Proof.Machine

/-- The invariant of the reachable state (R45), with the parameter ranges of R7 and the canonical form of the storage.
Every counter is within its width by its type; the registers whose width is a parameter are within it (R20). -/
structure Inv (s : State) : Prop where
  /-- the parameters are in their ranges (R7) -/
  cfgLegal : s.cfg.wf
  /-- `RBUF.R` < N -/
  rLt : s.rbufR.toNat < s.cfg.rbufSize
  /-- `RBUF.W` < N -/
  wLt : s.rbufW.toNat < s.cfg.rbufSize
  /-- `SCH.DIV` ≤ 4 -/
  divLe : s.schDiv.toNat ≤ 4
  /-- `MUX.USED` ≤ 8 -/
  usedLe : s.muxUsed.toNat ≤ 8
  /-- `MTD.T35` > `MTD.T15` -/
  thresholds : s.mtdT15 < s.mtdT35
  /-- `EVF.FLAGS` is within `EVF_W` bits -/
  flagsFit : s.evfFlags.toNat < 2 ^ s.cfg.evfW
  /-- `MTD.GAP` is within `GAP_W` bits -/
  gapFits : s.mtdGap.toNat ≤ s.cfg.gapMax
  /-- `MTD.T35`, and so `MTD.T15`, is within `GAP_W` bits -/
  thresholdsFit : s.mtdT35.toNat ≤ s.cfg.gapMax
  /-- `MTD.PSC` is within `PSC_W` bits -/
  pscFits : s.mtdPsc.toNat < 2 ^ s.cfg.pscW
  /-- if `MUX.ENQW` = some(...) then 1 ≤ left ≤ `ENQ_RETRY_BUDGET` -/
  waitLegal : ∀ w, s.muxEnqw = some w → 1 ≤ w.left ∧ w.left ≤ s.cfg.enqRetryBudget
  /-- the storage is in its canonical form -/
  memCanonical : s.rbufMem.wf
  /-- no cell at or above N is listed (R35) -/
  memInside : ∀ c ∈ s.rbufMem.cells, c.1 < s.cfg.rbufSize

/-- Take a list of steps in order, stopping at the first that is no step. -/
def runInstrs : List Instr → State → Host.Outcome State Fault Refusal
  | [], s => .next s
  | i :: rest, s =>
    match exec i s with
    | .next t => runInstrs rest t
    | .fault r => .fault r
    | .refused r => .refused r

/-- Take the words of a stimulus program in order (R16). -/
def runTrace : List Word → State → Host.Outcome State Fault Refusal
  | [], s => .next s
  | w :: rest, s =>
    match takeWord w s with
    | .next t => runTrace rest t
    | .fault r => .fault r
    | .refused r => .refused r

/-- A trace is well-formed from a state when every word in it is a step where it stands (R242); such a run is safe. -/
def WellFormedTrace (ws : List Word) (s : State) : Prop := ∃ t, runTrace ws s = .next t

/-- The bytes the receive buffer holds, oldest first (R140). -/
def rbufBytes (s : State) : List Byte :=
  (List.range s.rbufHeld).map fun k => s.rbufMem.read ((s.rbufR.toNat + k) % s.cfg.rbufSize)

/-- The entries the transmit queue holds, oldest first (R29). -/
def txqEntries (s : State) : List TxEntry :=
  (List.range s.muxUsed.toNat).map fun k => s.txqLoad (BitVec.ofNat 3 (s.muxRpos.toNat + k))

/-- Two states that agree on every register and on every storage cell that is held, so differ at most in the cells no
operation reads (R37). -/
structure SameVisible (s t : State) : Prop where
  /-- every field but the two storage arrays is the same -/
  registers : { t with rbufMem := s.rbufMem, muxTxq := s.muxTxq } = s
  /-- the same bytes held -/
  rbuf : rbufBytes t = rbufBytes s
  /-- the same entries queued -/
  txq : txqEntries t = txqEntries s

/-- A run of critical sections (R129): the steps `is` take `s` to `t`; every `IEN.ENTER` is matched by an `IEN.EXIT` of
the value it returned, and every other step is one that leaves `IE` alone (R128). -/
inductive BalancedRun : State → List Instr → State → Prop where
  /-- the empty sequence -/
  | nil (s : State) : BalancedRun s [] s
  /-- a step that assigns `IE` in no case, or an enqueue that starts no wait (R128) -/
  | plain (s t : State) (i : Instr)
      (hkeep : i ≠ .ienEnter ∧ (∀ saved, i ≠ .ienExit saved) ∧ i ≠ .ienOn ∧ i ≠ .evEnqretry ∧ i ≠ .evReset)
      (hwait : ∀ ch b, i = .muxEnq ch b true → s.txqRoom = true ∨ s.muxEnqw.isSome = true)
      (hstep : exec i s = .next t) : BalancedRun s [i] t
  /-- a critical section: enter, a balanced sequence, exit with the saved value -/
  | crit (s t u v : State) (is : List Instr) (henter : exec .ienEnter s = .next t)
      (hbody : BalancedRun t is u) (hexit : exec (.ienExit s.ie) u = .next v) :
      BalancedRun s (.ienEnter :: (is ++ [.ienExit s.ie])) v
  /-- two balanced sequences, one after the other -/
  | append (s t u : State) (is js : List Instr) (h1 : BalancedRun s is t) (h2 : BalancedRun t js u) :
      BalancedRun s (is ++ js) u

/-! ### The opcode map -/

/-- The rows of R83: each listed opcode, with the reserved bits of its format (the mask column without the opcode bits). -/
def opcodeRows : List (BitVec 8 × Word) :=
  [(0x01, 0x00FFFFFFFFFF), (0x02, 0x00FFFFFFFFFE), (0x03, 0x00FFFFFFFFFF), (0x08, 0x00FFFFFFFFF8),
   (0x10, 0x00FFFFFFFF00), (0x11, 0x00FFFFFFFF00), (0x12, 0x00FFFFFFFF00), (0x20, 0x00FFFFFFFF00),
   (0x21, 0x00FFFFFFFFFF), (0x22, 0x00FFFFFFFFFF), (0x23, 0x00FFFFFFFF00), (0x24, 0x00FFFFFFFFFF),
   (0x30, 0x00F800000000), (0x31, 0x00FFFFFFFFFF), (0x40, 0x00FFFFFFE800), (0x41, 0x00FFFFFFF8FE),
   (0x80, 0x00FFFFFFFFFF), (0x81, 0x00FFFFFFFFFF), (0x90, 0x00FFFFFFFFFF), (0x91, 0x00FFFFFFF800),
   (0xA0, 0x00FFFFFFFF00), (0xB0, 0x00FFFFFFFF00), (0xB1, 0x00FFFFFFFFFF), (0xFF, 0x00FFFFFFFFFF)]

/-! ### Views of the output record -/

/-- The bytes handed to the link, in order. -/
def linkBytes (os : List Output) : List Byte :=
  os.filterMap fun
    | .linkTx b => some b
    | _ => none

/-- The bytes delivered to channel handlers, with their channels, in order. -/
def deliveredBytes (os : List Output) : List TxEntry :=
  os.filterMap fun
    | .chDeliver ch b => some { ch := ch, b := b }
    | _ => none

/-- The hooks invoked, in order. -/
def firedHooks (os : List Output) : List (Fin 8) :=
  os.filterMap fun
    | .hookFire k => some k
    | _ => none

/-- The output action is a response. -/
def isRsp : Output → Bool
  | .rsp _ _ => true
  | _ => false

/-! ### What the families count, store and queue -/

/-- A physical transfer is one of the three receive protocol errors (R208, R244 (4a)). -/
def linkProtocolError (s : State) (x : Byte) : Bool :=
  match s.muxRxpend with
  | none => !xferHigh x
  | some p => xferHigh x || p.ch != xferCh x

/-- The table of spec/40_saturating_counters.md R111: the step counts the counter, on the condition of its row. -/
def countsNow (i : Instr) (s : State) (c : CounterId) : Bool :=
  match c, i with
  | .schOvr, .evBasetick => !decide (s.schDiv < 4#3) && s.schGuard
  | .rbufErr, .rbufPush _ => s.rbufFull
  | .rbufErr, .evConrx _ => s.rbufFull
  | .mtdRxcnt, .evMbrx _ fe dor pe => !(fe || dor || pe)
  | .mtdErrcnt, .evMbrx _ fe dor pe => fe || dor || pe
  | .muxErr, .evLink x => linkProtocolError s x
  | .muxErr, .muxEnq _ _ blk => !s.txqRoom && (!blk || s.muxEnqw.isSome)
  | .muxErr, .evEnqretry => !s.txqRoom && s.muxEnqw.any fun w => w.left == 1
  | _, _ => false

/-- How many scheduler ticks of a run overrun (R162). -/
def overruns : List Instr → State → Nat
  | [], _ => 0
  | i :: rest, s =>
    (if countsNow i s .schOvr then 1 else 0) +
    match exec i s with
    | .next t => overruns rest t
    | .fault _ => 0
    | .refused _ => 0

/-- How many scheduler ticks a run of steps without reset holds: every fifth base tick, counted from `SCH.DIV` (R161). -/
def schedTicks (is : List Instr) (s : State) : Nat := (s.schDiv.toNat + is.count .evBasetick) / 5

/-- What a step makes of the held bytes of a receive buffer of N slots: a bounded first-in first-out queue (R140, R148). -/
def fifoNext (n : Nat) (i : Instr) (q : List Byte) : List Byte :=
  match i with
  | .rbufPush b => if q.length < n - 1 then q ++ [b] else q
  | .evConrx b => if q.length < n - 1 then q ++ [b] else q
  | .rbufPop => q.tail
  | .rbufFlush => []
  | .evReset => []
  | _ => q

/-- The byte a step pushes into the receive buffer. -/
def pushedByte : Instr → Option Byte
  | .rbufPush b => some b
  | .evConrx b => some b
  | _ => none

/-- The bytes of a run's pushes that did not find the buffer full, in order (R148). -/
def acceptedBytes : List Instr → State → List Byte
  | [], _ => []
  | i :: rest, s =>
    (if s.rbufFull then [] else (pushedByte i).toList) ++
    match exec i s with
    | .next t => acceptedBytes rest t
    | .fault _ => []
    | .refused _ => []

/-- The byte a step's successful pop answered, in the state after it (R143). -/
def poppedByte (i : Instr) (t : State) : List Byte :=
  match i, t.outputs.getLast? with
  | .rbufPop, some (.rsp .ok v) => [v.setWidth 8]
  | _, _ => []

/-- The bytes a run's successful pops answered, in order (R148). -/
def poppedBytes : List Instr → State → List Byte
  | [], _ => []
  | i :: rest, s =>
    match exec i s with
    | .next t => poppedByte i t ++ poppedBytes rest t
    | .fault _ => []
    | .refused _ => []

/-- One scheduler tick's worth of base ticks, and the hook's return (R89 `EV.SCHEDTICK`, R164). -/
def schedRound : List Instr := List.replicate 5 .evBasetick ++ [.evHookdone]

/-- The hooks that the `n` scheduler ticks after counter value `t` select, in order (R163). -/
def hooksFrom (t : BitVec 8) (n : Nat) : List (Fin 8) :=
  (List.range n).filterMap fun j => lsbIndex (t + BitVec.ofNat 8 (j + 1))

end Sys2Proof.Machine
end

