-- ==== Sys2Proof/Certificates/Slice0/Obligations.lean ====
section
/-! DEFINITION. The statements for the provers, from the numbered rules of spec/. An equation `exec i s = .next …` whose
right side is `s` with named fields replaced is at once the result, the completion and the frame of the instruction:
every field not named, each byte of storage among them, is as before. -/

open Sys2Proof Sys2Proof.Machine

/-! ### Encoding and stepping -/

/-- Decode and encode agree on every well-formed operation, at every value of every operand (R80 to R83). -/
def Obligations.DecodeOfEncodeIsTheInstruction : Prop :=
  ∀ i : Instr, i.wf = true → decode (encode i) = .ok i

/-- Each word has one meaning: a word that decodes is the encoding of what it decodes to, which is well-formed, so no
reserved bit is dropped and no illegal index accepted (R81, R86). -/
def Obligations.EncodeOfDecodeIsTheWord : Prop :=
  ∀ (w : Word) (i : Instr), decode w = .ok i → encode i = w ∧ i.wf = true

/-- Words written out in the spec decode to what the spec says they spell (the examples of R90, R112, R209, R281). -/
def Obligations.SpecExampleWordsDecode : Prop :=
  decode 0x4000000003A7#48 = .ok (.muxEnq 3 0xA7 false) ∧
  decode 0x3002015E0096#48 = .ok (.mtdSetthr 150 350 2) ∧
  decode 0x910000000441#48 = .ok (.evMbrx 0x41 true false false) ∧
  decode 0x080000000004#48 = .ok (.cntRd 4) ∧
  decode 0x410000000301#48 = .ok (.muxReg 3 true) ∧
  decode 0xFF0000000000#48 = .ok .evReset

/-- The reserved encodings of R86 are rejected by name, and no other word is: an opcode outside R83 is illegal (with bit 47
set: spells no event), a reserved bit of a listed opcode's format set likewise, and so is `CNT.RD` with an index of 5..7;
every other word of a listed opcode spells an operation. Rests on the spec's decision D28. -/
def Obligations.ReservedEncodingsAreRejected : Prop :=
  (∀ w : Word, (∀ r ∈ opcodeRows, opcodeOf w ≠ r.1) →
    decode w = .error (if w.getLsbD 47 then .unknownEvent else .illegalOpcode)) ∧
  (∀ w : Word, ∀ r ∈ opcodeRows, opcodeOf w = r.1 → w &&& r.2 ≠ 0 →
    decode w = .error (if w.getLsbD 47 then .eventReservedBits else .reservedBits)) ∧
  (∀ w : Word, opcodeOf w = 0x08#8 → w &&& 0x00FFFFFFFFF8#48 = 0 → 5 ≤ (w.extractLsb' 0 3).toNat →
    decode w = .error .counterIndex) ∧
  (∀ w : Word, ∀ r ∈ opcodeRows, opcodeOf w = r.1 → w &&& r.2 = 0 →
    (opcodeOf w = 0x08#8 → (w.extractLsb' 0 3).toNat ≤ 4) → ∃ i, decode w = .ok i)

/-- A step runs the operation the next offered word decodes to, on the state without that word; nothing else is added
around it. The list of offered words is the model's own device (log entry 1). -/
def Obligations.StepRunsTheDecodedInstruction : Prop :=
  ∀ (s : State) (w : Word) (rest : List Word) (i : Instr),
    s.stimulus = w :: rest → decode w = .ok i → step s = exec i { s with stimulus := rest }

/-- An illegal command word answers `REFUSED` and changes nothing else; a word of `OPC[7]` = 1 presented on the command
port does so too; an event word that spells no event is no step. Rests on the spec's decisions D1, D28. The last two clauses,
an operand beyond a narrower `EVF_W`, `GAP_W` or `PSC_W`, are the model's choice (log entry 12). -/
def Obligations.IllegalWordsAnswerRefused : Prop :=
  (∀ (s : State) (w : Word) (rest : List Word) (e : DecodeError),
    s.stimulus = w :: rest → decode w = .error e → isEventWord w = false →
    step s = .next { s with stimulus := rest, outputs := s.outputs ++ [.rsp .refused 0] }) ∧
  (∀ (s : State) (w : Word) (rest : List Word) (e : DecodeError),
    s.stimulus = w :: rest → decode w = .error e → isEventWord w = true →
    step s = .refused .illFormedEvent) ∧
  (∀ (s : State) (w : Word), isEventWord w = true →
    presentCommand w s = .next { s with outputs := s.outputs ++ [.rsp .refused 0] }) ∧
  (∀ (s : State) (m : Byte) (i : Instr), i = .evfSet m ∨ i = .evfClr m ∨ i = .evfTst m → 2 ^ s.cfg.evfW ≤ m.toNat →
    exec i s = .next { s with outputs := s.outputs ++ [.rsp .refused 0] }) ∧
  (∀ (s : State) (t15 t35 : Half) (psc : BitVec 3),
    2 ^ s.cfg.gapW ≤ t15.toNat ∨ 2 ^ s.cfg.gapW ≤ t35.toNat ∨ 2 ^ s.cfg.pscW ≤ psc.toNat →
    exec (.mtdSetthr t15 t35 psc) s = .next { s with outputs := s.outputs ++ [.rsp .refused 0] })

/-! ### Saturating counters -/

/-- The saturating increment is `min(v + 1, MAX)` with `MAX = 2^W - 1`, for W = 8 and W = 16 (R12). -/
def Obligations.SaturatingIncrementIsMin : Prop :=
  (∀ v : BitVec 8, Counter.inc (.w8 v) = .w8 (if v.toNat = 2 ^ 8 - 1 then v else v + 1)) ∧
  (∀ v : BitVec 16, Counter.inc (.w16 v) = .w16 (if v.toNat = 2 ^ 16 - 1 then v else v + 1)) ∧
  (∀ c : Counter, c.inc.value.toNat = min (c.value.toNat + 1) c.max)

/-- `CNT.RD idx` answers the counter of its index, zero-extended to 16 bits, and changes nothing; 5..7 answer `REFUSED`
(R112, the spec's decision D32). -/
def Obligations.CntRdAnswersOneCounter : Prop :=
  (∀ s : State,
    exec (.cntRd 0) s = .next { s with outputs := s.outputs ++ [.rsp .ok s.schOvr.value] } ∧
    exec (.cntRd 1) s = .next { s with outputs := s.outputs ++ [.rsp .ok s.rbufErr.value] } ∧
    exec (.cntRd 2) s = .next { s with outputs := s.outputs ++ [.rsp .ok s.mtdRxcnt.value] } ∧
    exec (.cntRd 3) s = .next { s with outputs := s.outputs ++ [.rsp .ok s.mtdErrcnt.value] } ∧
    exec (.cntRd 4) s = .next { s with outputs := s.outputs ++ [.rsp .ok s.muxErr.value] }) ∧
  (∀ (s : State) (idx : BitVec 3), 5 ≤ idx.toNat →
    exec (.cntRd idx) s = .next { s with outputs := s.outputs ++ [.rsp .refused 0] })

/-- The table of R111 is complete: a step changes a counter by one saturating increment exactly on the table's condition,
and by nothing else; only reset, and for `RBUF.ERR` a flush, do otherwise: they zero it, its width kept (R114). -/
def Obligations.CountersCountExactlyAsTheTableSays : Prop :=
  ∀ (i : Instr) (s t : State) (c : CounterId), exec i s = .next t →
    t.counter c =
      if i = .evReset ∨ (i = .rbufFlush ∧ c = .rbufErr) then (s.counter c).zeroed
      else if countsNow i s c then (s.counter c).inc
      else s.counter c

/-- Law of a counter: between the steps that zero it, it never decreases, and once at its maximum it stays there (R113). -/
def Obligations.CountersNeverDecrease : Prop :=
  ∀ (is : List Instr) (s t : State) (c : CounterId),
    .evReset ∉ is → (c = .rbufErr → .rbufFlush ∉ is) → runInstrs is s = .next t →
    (s.counter c).value ≤ (t.counter c).value ∧
    ((s.counter c).value.toNat = (s.counter c).max → t.counter c = s.counter c)

/-! ### Event flags and the critical section -/

/-- `EVF.SET m` sets the named flags and answers whether any of them was pending before (R121). The mask names flags below
`EVF_W`, which by default is every mask. -/
def Obligations.EvfSetReportsThenSets : Prop :=
  ∀ (m : Byte) (s : State),
    encode (.evfSet m) = 0x10#8 ++ (0#32 ++ m) ∧
    (m.toNat < 2 ^ s.cfg.evfW → exec (.evfSet m) s = .next { s with
      evfFlags := s.evfFlags ||| m
      outputs := s.outputs ++ [.rsp .ok (if s.evfFlags &&& m ≠ 0 then 1 else 0)] })

/-- `EVF.CLR m` clears the named flags and answers whether any of them was pending before (R122). The mask names flags below
`EVF_W`, which by default is every mask. -/
def Obligations.EvfClrReportsThenClears : Prop :=
  ∀ (m : Byte) (s : State),
    encode (.evfClr m) = 0x11#8 ++ (0#32 ++ m) ∧
    (m.toNat < 2 ^ s.cfg.evfW → exec (.evfClr m) s = .next { s with
      evfFlags := s.evfFlags &&& ~~~m
      outputs := s.outputs ++ [.rsp .ok (if s.evfFlags &&& m ≠ 0 then 1 else 0)] })

/-- `EVF.TST m` answers whether any named flag is pending and changes nothing (R123). The mask names flags below `EVF_W`,
which by default is every mask. -/
def Obligations.EvfTstOnlyReports : Prop :=
  ∀ (m : Byte) (s : State),
    encode (.evfTst m) = 0x12#8 ++ (0#32 ++ m) ∧
    (m.toNat < 2 ^ s.cfg.evfW → exec (.evfTst m) s = .next { s with
      outputs := s.outputs ++ [.rsp .ok (if s.evfFlags &&& m ≠ 0 then 1 else 0)] })

/-- `IEN.ENTER` returns `IE` and clears it, `IEN.EXIT s` writes `s`, `IEN.ON` sets it; nothing else changes (R125, R126,
R127, the spec's decision D4). -/
def Obligations.IenCommandsAssignIe : Prop :=
  ∀ (s : State) (saved : Bool),
    exec .ienEnter s = .next { s with
      ie := false, outputs := s.outputs ++ [.rsp .ok (if s.ie then 1 else 0)] } ∧
    exec (.ienExit saved) s = .next { s with ie := saved, outputs := s.outputs ++ [.rsp .ok 0] } ∧
    exec .ienOn s = .next { s with ie := true, outputs := s.outputs ++ [.rsp .ok 0] }

/-- Every step other than `IEN.*`, an enqueue that starts a wait, a poll that ends one, and reset leaves `IE` as it found
it (R128). -/
def Obligations.OtherStepsPreserveIe : Prop :=
  (∀ (i : Instr) (s t : State), exec i s = .next t →
    i ≠ .ienEnter → (∀ saved, i ≠ .ienExit saved) → i ≠ .ienOn → i ≠ .evReset →
    (∀ ch b, i = .muxEnq ch b true → s.txqRoom = true ∨ s.muxEnqw.isSome = true) →
    (i = .evEnqretry → t.muxEnqw.isSome = true) → t.ie = s.ie) ∧
  (∀ (i : Instr) (s t : State), exec i s = .next t → isGated i = true → s.ie = true ∧ t.ie = true)

/-- The nesting law: `IE` after a balanced run equals `IE` before it, and a balanced run from `IE` = 0 has `IE` = 0
throughout (R129). -/
def Obligations.CriticalSectionsNest : Prop :=
  (∀ (s t : State) (is : List Instr), BalancedRun s is t → runInstrs is s = .next t ∧ t.ie = s.ie) ∧
  (∀ (s t : State) (is : List Instr), BalancedRun s is t → s.ie = false →
    ∀ (is₁ is₂ : List Instr) (u : State), is = is₁ ++ is₂ → runInstrs is₁ s = .next u → u.ie = false)

/-! ### The receive buffer -/

/-- `RBUF.PUSH b`: with room the byte is stored at the write index, which advances `mod N`; on a full buffer the sentinel
0 is stored there, the error counter counts and neither index moves; `OK` either way (R141, R142, decisions D10, D12). -/
def Obligations.RbufPushStoresOrDrops : Prop :=
  ∀ (b : Byte) (s : State), s.rbufW.toNat < s.cfg.rbufSize →
    ((s.rbufW.toNat + 1) % s.cfg.rbufSize = s.rbufR.toNat →
      exec (.rbufPush b) s = .next { s with
        rbufMem := s.rbufMem.write s.rbufW.toNat 0x00#8
        rbufErr := s.rbufErr.inc
        outputs := s.outputs ++ [.rsp .ok 0] }) ∧
    ((s.rbufW.toNat + 1) % s.cfg.rbufSize ≠ s.rbufR.toNat →
      exec (.rbufPush b) s = .next { s with
        rbufMem := s.rbufMem.write s.rbufW.toNat b
        rbufW := BitVec.ofNat 8 ((s.rbufW.toNat + 1) % s.cfg.rbufSize)
        outputs := s.outputs ++ [.rsp .ok 0] })

/-- `EV.CONRX data` does what a push does, needs `IE` = 1 and emits nothing (R146, R141, decision D10). -/
def Obligations.EvConrxStoresOrDrops : Prop :=
  (∀ (d : Byte) (s : State), s.ie = true → s.rbufW.toNat < s.cfg.rbufSize →
    ((s.rbufW.toNat + 1) % s.cfg.rbufSize = s.rbufR.toNat →
      exec (.evConrx d) s = .next { s with
        rbufMem := s.rbufMem.write s.rbufW.toNat 0x00#8
        rbufErr := s.rbufErr.inc }) ∧
    ((s.rbufW.toNat + 1) % s.cfg.rbufSize ≠ s.rbufR.toNat →
      exec (.evConrx d) s = .next { s with
        rbufMem := s.rbufMem.write s.rbufW.toNat d
        rbufW := BitVec.ofNat 8 ((s.rbufW.toNat + 1) % s.cfg.rbufSize) })) ∧
  (∀ (d : Byte) (s : State), s.ie = false → exec (.evConrx d) s = .refused .notEnabled)

/-- The storage frame: only the two pushes write `RBUF.MEM`, and only the cell the write index names; every other cell
reads as before, and every other step leaves every cell as it was (R20, R75, R141). Reset, after which R282 leaves the
contents unspecified, is exempt. -/
def Obligations.OnlyPushesWriteTheWriteCell : Prop :=
  ∀ (i : Instr) (s t : State), s.rbufMem.wf → i ≠ .evReset → exec i s = .next t →
    (∀ a : Nat, a ≠ s.rbufW.toNat ∨ pushedByte i = none → t.rbufMem.read a = s.rbufMem.read a) ∧
    (∀ b : Byte, pushedByte i = some b →
      t.rbufMem.read s.rbufW.toNat = if s.rbufFull then 0x00#8 else b)

/-- `RBUF.POP` answers `EMPTY` on an empty buffer, else the byte at the read index, which advances `mod N` (R143). -/
def Obligations.RbufPopTakesTheOldest : Prop :=
  encode .rbufPop = 0x21#8 ++ 0#40 ∧
  ∀ s : State,
    (s.rbufR = s.rbufW → exec .rbufPop s = .next { s with outputs := s.outputs ++ [.rsp .empty 0] }) ∧
    (s.rbufR ≠ s.rbufW → s.rbufR.toNat < s.cfg.rbufSize →
      exec .rbufPop s = .next { s with
        rbufR := BitVec.ofNat 8 ((s.rbufR.toNat + 1) % s.cfg.rbufSize)
        outputs := s.outputs ++ [.rsp .ok ((s.rbufMem.read s.rbufR.toNat).setWidth 16)] })

/-- `RBUF.AVAIL` answers `(RBUF.W - RBUF.R) mod N`, the non-negative remainder, and changes nothing (R144). -/
def Obligations.RbufAvailCountsTheHeld : Prop :=
  encode .rbufAvail = 0x22#8 ++ 0#40 ∧
  ∀ s : State, s.cfg.wf → s.rbufR.toNat < s.cfg.rbufSize →
    exec .rbufAvail s = .next { s with
      outputs := s.outputs ++
        [.rsp .ok (BitVec.ofInt 16 (((s.rbufW.toNat : Int) - (s.rbufR.toNat : Int)) % (s.cfg.rbufSize : Int)))] }

/-- `RBUF.PEEK off` answers the byte `off` places after the oldest when fewer than `avail` lie before it, else `RANGE`;
it changes nothing (R145). -/
def Obligations.RbufPeekReadsTheHeld : Prop :=
  ∀ (off : Byte) (s : State), s.cfg.wf → s.rbufR.toNat < s.cfg.rbufSize →
    encode (.rbufPeek off) = 0x23#8 ++ (0#32 ++ off) ∧
    exec (.rbufPeek off) s = .next { s with
      outputs := s.outputs ++
        [if ((s.rbufW.toNat : Int) - (s.rbufR.toNat : Int)) % (s.cfg.rbufSize : Int) ≤ (off.toNat : Int)
          then .rsp .range 0
          else .rsp .ok ((s.rbufMem.read ((s.rbufR.toNat + off.toNat) % s.cfg.rbufSize)).setWidth 16)] }

/-- `RBUF.FLUSH` has the console receiver drained, zeroes both indices and the error counter, and leaves the storage
(R147, decision D11). -/
def Obligations.RbufFlushEmptiesTheBuffer : Prop :=
  ∀ s : State,
    exec .rbufFlush s = .next { s with
      rbufR := 0, rbufW := 0, rbufErr := s.rbufErr.zeroed
      outputs := s.outputs ++ [.conDrain, .rsp .ok 0] } ∧
    s.rbufErr.zeroed.value = 0 ∧ s.rbufErr.zeroed.max = s.rbufErr.max

/-- The receive buffer refines a bounded queue: the held bytes after any step are what the queue makes of the held bytes
before it, a pop answers the queue's head and a count its length (R140, R148). -/
def Obligations.ReceiveBufferRefinesBoundedFifo : Prop :=
  ∀ (i : Instr) (s t : State), Inv s → exec i s = .next t →
    rbufBytes t = fifoNext s.cfg.rbufSize i (rbufBytes s) ∧
    (rbufBytes t).length < s.cfg.rbufSize ∧
    (∀ (v : Byte) (q : List Byte), i = .rbufPop → rbufBytes s = v :: q →
      t.outputs = s.outputs ++ [.rsp .ok (v.setWidth 16)]) ∧
    (i = .rbufAvail → t.outputs = s.outputs ++ [.rsp .ok (BitVec.ofNat 16 (rbufBytes s).length)]) ∧
    (∀ (off v : Byte), i = .rbufPeek off → (rbufBytes s)[off.toNat]? = some v →
      t.outputs = s.outputs ++ [.rsp .ok (v.setWidth 16)])

/-- First in, first out over whole runs: the bytes held before, then those of the pushes that did not find the buffer
full, are in order the bytes popped, then those held after; no byte is lost, doubled or reordered (R148). -/
def Obligations.PoppedBytesArePushedBytesInOrder : Prop :=
  ∀ (is : List Instr) (s t : State), Inv s → .rbufFlush ∉ is → .evReset ∉ is → runInstrs is s = .next t →
    rbufBytes s ++ acceptedBytes is s = poppedBytes is s ++ rbufBytes t

/-! ### The scheduler -/

/-- `lsb_index(t)` for `t` ≠ 0 is the least `k` with `t[k]` = 1; the scheduler tick that would use it at 0 tests first and
fires nothing (R13). -/
def Obligations.LsbIndexIsTheLeastSetBit : Prop :=
  (∀ t : BitVec 8, t ≠ 0 → ∃ k : Fin 8, lsbIndex t = some k ∧ t.getLsbD k.val = true ∧
    ∀ j : Nat, j < k.val → t.getLsbD j = false) ∧
  (∀ s : State, s.ie = true → ¬ s.schDiv < 4#3 → s.schGuard = false → s.schTick + 1 = 0 →
    exec .evBasetick s = .next { s with schDiv := 0, schTick := 0 })

/-- `EV.BASETICK`: needs `IE` = 1; counts `SCH.DIV` up to 4; the base tick that finds it there advances the tick counter, and
then a set guard counts an overrun, a clear one is set and the hook of the lowest set bit fires, if a bit is set (R162). -/
def Obligations.BaseTickDividesAndDispatches : Prop :=
  encode .evBasetick = 0x80#8 ++ 0#40 ∧
  (∀ s : State, s.ie = false → exec .evBasetick s = .refused .notEnabled) ∧
  (∀ s : State, s.ie = true →
    (s.schDiv < 4#3 → exec .evBasetick s = .next { s with schDiv := s.schDiv + 1 }) ∧
    (¬ s.schDiv < 4#3 →
      (s.schGuard = true → exec .evBasetick s = .next { s with
        schDiv := 0, schTick := s.schTick + 1, schOvr := s.schOvr.inc }) ∧
      (s.schGuard = false → s.schTick + 1 = 0 → exec .evBasetick s = .next { s with
        schDiv := 0, schTick := s.schTick + 1 }) ∧
      (∀ k : Fin 8, s.schGuard = false → (s.schTick + 1).getLsbD k.val = true →
        (∀ j : Nat, j < k.val → (s.schTick + 1).getLsbD j = false) →
        exec .evBasetick s = .next { s with
          schDiv := 0, schTick := s.schTick + 1, schGuard := true
          outputs := s.outputs ++ [.hookFire k] })))

/-- `EV.HOOKDONE` clears the guard and nothing else, whatever `IE` is (R164, decision D14). -/
def Obligations.HookDoneClearsTheGuard : Prop :=
  ∀ s : State, exec .evHookdone s = .next { s with schGuard := false }

/-- The selection law: hook `k` is the one selected exactly when `t mod 2^(k+1) = 2^k`; at `t` = 0 none is (R163, R166). -/
def Obligations.HookSelectionLaw : Prop :=
  (∀ (t : BitVec 8) (k : Fin 8), lsbIndex t = some k ↔ t.toNat % 2 ^ (k.val + 1) = 2 ^ k.val) ∧
  (∀ t : BitVec 8, lsbIndex t = none ↔ t = 0)

/-- If no tick overruns, the scheduler fires in order the hooks that the successive counter values select, one tick after
the other from any counter value and divider, whatever other steps fall in between (R161, R163); and rounds of five base
ticks, each hook returning after, are such a run, which completes and does nothing else. -/
def Obligations.HooksFireStrictlyByTheCounter : Prop :=
  (∀ (is : List Instr) (s t : State), s.schDiv.toNat ≤ 4 → .evReset ∉ is → runInstrs is s = .next t →
    overruns is s = 0 →
    firedHooks (newOutputs s t) = hooksFrom s.schTick (schedTicks is s) ∧
    t.schTick = s.schTick + BitVec.ofNat 8 (schedTicks is s) ∧
    t.schDiv.toNat = (s.schDiv.toNat + is.count .evBasetick) % 5) ∧
  (∀ (n : Nat) (s : State), s.ie = true → s.schDiv = 0 → s.schGuard = false →
    runInstrs (List.replicate n schedRound).flatten s = .next { s with
      schTick := s.schTick + BitVec.ofNat 8 n
      outputs := s.outputs ++ (hooksFrom s.schTick n).map .hookFire })

/-- One hook at a time: while the guard is set no step fires a hook, and only `EV.HOOKDONE` and reset clear it; no step
fires two (R165, R167). -/
def Obligations.NoHookPreemptsAHook : Prop :=
  (∀ (i : Instr) (s t : State), exec i s = .next t → s.schGuard = true →
    (i ≠ .evHookdone → i ≠ .evReset → t.schGuard = true) ∧ ∀ k : Fin 8, .hookFire k ∉ newOutputs s t) ∧
  (∀ (i : Instr) (s t : State) (k : Fin 8), exec i s = .next t → .hookFire k ∈ newOutputs s t →
    i = .evBasetick ∧ newOutputs s t = [.hookFire k] ∧ s.schGuard = false ∧ t.schGuard = true)

/-! ### The Modbus timing detector -/

/-- The classification: new-frame iff `g > T35`, error-frame iff `T15 < g ≤ T35`, continuation iff `g ≤ T15`, for every gap
and every pair `T15 < T35`; one of the three always holds and never two (R182). -/
def Obligations.ClassificationIsStrict : Prop :=
  ∀ g t15 t35 : Half, t15 < t35 →
    (classify g t15 t35 = .newFrame ↔ t35.toNat < g.toNat) ∧
    (classify g t15 t35 = .errorFrame ↔ t15.toNat < g.toNat ∧ g.toNat ≤ t35.toNat) ∧
    (classify g t15 t35 = .continuation ↔ g.toNat ≤ t15.toNat)

/-- `MTD.SETTHR` writes both thresholds and the prescaler select in one step and presents the select, or, when
`t35 ≤ t15`, answers `BADARG` and changes nothing (R183, decision D17). The operands are within `GAP_W` and `PSC_W`, which
by default all are. -/
def Obligations.SetthrWritesAllOrNothing : Prop :=
  ∀ (t15 t35 : Half) (psc : BitVec 3) (s : State),
    t15.toNat < 2 ^ s.cfg.gapW → t35.toNat < 2 ^ s.cfg.gapW → psc.toNat < 2 ^ s.cfg.pscW →
    (t15.toNat < t35.toNat → exec (.mtdSetthr t15 t35 psc) s = .next { s with
      mtdT15 := t15, mtdT35 := t35, mtdPsc := psc
      outputs := s.outputs ++ [.pscSel psc, .rsp .ok 0] }) ∧
    (t35.toNat ≤ t15.toNat → exec (.mtdSetthr t15 t35 psc) s = .next { s with
      outputs := s.outputs ++ [.rsp .badarg 0] })

/-- `MTD.RDGAP` answers the gap timer whole and changes nothing (R185, decision D21). -/
def Obligations.RdgapAnswersTheTimer : Prop :=
  ∀ s : State, exec .mtdRdgap s = .next { s with outputs := s.outputs ++ [.rsp .ok s.mtdGap] }

/-- `EV.GAPTICK` adds one to the gap timer, which stops at 0xFFFF, whatever `IE` is (R181, decision D15); with a narrower
`GAP_W` it stops at `2^GAP_W - 1` (the model's choice, log entry 12). -/
def Obligations.GapTickCountsAndStops : Prop :=
  (∀ s : State, s.cfg.gapW = 16 →
    exec .evGaptick s = .next { s with mtdGap := BitVec.ofNat 16 (min (s.mtdGap.toNat + 1) 0xFFFF) }) ∧
  (∀ s : State, s.cfg.wf → s.mtdGap.toNat < 2 ^ s.cfg.gapW →
    exec .evGaptick s = .next { s with
      mtdGap := BitVec.ofNat 16 (min (s.mtdGap.toNat + 1) (2 ^ s.cfg.gapW - 1)) })

/-- `EV.MBRX`: needs `IE` = 1; the gap is zeroed, exactly one of the two counters counts, and the byte is delivered with
the three conditions computed from the captured gap and the UART bits (R184, decisions D19, D20). -/
def Obligations.MbrxDeliversTheClassifiedByte : Prop :=
  (∀ (data : Byte) (fe dor pe : Bool) (s : State), s.ie = true →
    exec (.evMbrx data fe dor pe) s = .next { s with
      mtdGap := 0
      mtdErrcnt := if fe || dor || pe then s.mtdErrcnt.inc else s.mtdErrcnt
      mtdRxcnt := if fe || dor || pe then s.mtdRxcnt else s.mtdRxcnt.inc
      outputs := s.outputs ++ [.mbDeliver data {
        uartError := fe || dor || pe
        errFrame := decide (s.mtdGap.toNat ≤ s.mtdT35.toNat ∧ s.mtdT15.toNat < s.mtdGap.toNat)
        newFrame := decide (s.mtdT35.toNat < s.mtdGap.toNat) }] }) ∧
  (∀ (data : Byte) (fe dor pe : Bool) (s : State), s.ie = false →
    exec (.evMbrx data fe dor pe) s = .refused .notEnabled)

/-- The packed status has `uartError` in bit 0, `errFrame` in bit 1, `newFrame` in bit 2, and is never 6 or 7 for a
classified byte (R187, decision D19). -/
def Obligations.StatusCodeLayout : Prop :=
  (∀ st : MbStatus, st.code.getLsbD 0 = st.uartError ∧ st.code.getLsbD 1 = st.errFrame ∧
    st.code.getLsbD 2 = st.newFrame) ∧
  (∀ (c : GapClass) (ue : Bool), (mbStatusOf c ue).code.toNat < 6)

/-- Between two received bytes the gap timer is the number of gap ticks, capped at 65535, whatever other steps fall in between
(R188, decision D15); with a narrower `GAP_W` it is capped at `2^GAP_W - 1` (the model's choice, log entry 12). -/
def Obligations.GapTimerIsTheCappedTickCount : Prop :=
  ∀ (is : List Instr) (s t : State), s.cfg.wf → s.mtdGap.toNat < 2 ^ s.cfg.gapW →
    (∀ data fe dor pe, .evMbrx data fe dor pe ∉ is) → .evReset ∉ is → runInstrs is s = .next t →
    t.mtdGap.toNat = min (s.mtdGap.toNat + is.count .evGaptick) (2 ^ s.cfg.gapW - 1)

/-- The threshold computation of `MTD.SETBAUD`: for every legal `tpb` the expansion carries floor(33·tpb/2) and
floor(77·tpb/2) in 16 bits, and the block accepts the pair where it is within `GAP_W`, as by default it is (R186, decision
D18). -/
def Obligations.SetbaudPairIsAccepted : Prop :=
  ∀ (tpb : Nat) (psc : BitVec 3), 1 ≤ tpb → tpb ≤ 1702 →
    ∃ t15 t35 : Half, expand (.mtdSetbaud tpb psc) = some [.mtdSetthr t15 t35 psc] ∧
      t15.toNat = 33 * tpb / 2 ∧ t35.toNat = 77 * tpb / 2 ∧
      ∀ s : State, t35.toNat < 2 ^ s.cfg.gapW → psc.toNat < 2 ^ s.cfg.pscW →
        exec (.mtdSetthr t15 t35 psc) s = .next { s with
        mtdT15 := t15, mtdT35 := t35, mtdPsc := psc
        outputs := s.outputs ++ [.pscSel psc, .rsp .ok 0] }

/-! ### The transport -/

/-- The wire format: the channel in bits 7:5, the marker in bit 4, the nibble in bits 3:0; decoding a byte's two transfers
gives back the channel, the half and the byte (R201, R202). -/
def Obligations.WireFormatRoundTrip : Prop :=
  ∀ (ch : Chan) (b : Byte),
    (hiXfer ch b).toNat = ch.toNat * 32 + 16 + b.toNat / 16 ∧ (loXfer ch b).toNat = ch.toNat * 32 + b.toNat % 16 ∧
    xferCh (hiXfer ch b) = ch ∧ xferHigh (hiXfer ch b) = true ∧
    xferCh (loXfer ch b) = ch ∧ xferHigh (loXfer ch b) = false ∧
    joinNibbles (xferNib (hiXfer ch b)) (xferNib (loXfer ch b)) = b ∧
    expand (.evLinkpair ch b) = some [.evLink (hiXfer ch b), .evLink (loXfer ch b)]

/-- `txq_store` writes the entry at `(MUX.RPOS + MUX.USED) mod 8` and counts it; the queue's entries are the old ones, then
the new one, and the link takes the oldest entry away with its high transfer; only `MUX.ENQ` and `EV.ENQRETRY` store, and
only with room (R203, R207, decision D22). Reset, after which R282 leaves the contents unspecified, is exempt. -/
def Obligations.TxqStoreAppendsAndLinkTakesTheOldest : Prop :=
  (∀ (ch : Chan) (b : Byte) (s : State), s.muxUsed.toNat < 8 →
    txqStore ch b s = { s with
      muxTxq := s.muxTxq.set ((s.muxRpos.toNat + s.muxUsed.toNat) % 8) { ch := ch, b := b } (Nat.mod_lt _ (by decide))
      muxUsed := BitVec.ofNat 4 (s.muxUsed.toNat + 1) } ∧
    txqEntries (txqStore ch b s) = txqEntries s ++ [{ ch := ch, b := b }]) ∧
  (∀ (s : State), s.muxTxlow = none → ∀ (e : TxEntry) (q : List TxEntry), txqEntries s = e :: q →
    txqEntries (linkTx s) = q ∧ linkBytes (newOutputs s (linkTx s)) = [hiXfer e.ch e.b] ∧
    (linkTx s).muxTxlow = some (loXfer e.ch e.b)) ∧
  (∀ (i : Instr) (s t : State), exec i s = .next t → i ≠ .evReset → t.muxTxq ≠ s.muxTxq →
    s.muxUsed.toNat < 8 ∧ ((∃ ch b blk, i = .muxEnq ch b blk) ∨ i = .evEnqretry))

/-- `MUX.ENQ`: room stores and answers `OK`; a full queue counts and answers `FULL` for a non-blocking enqueue and, while
a wait is open, for a blocking one; else the wait opens, `IE` saved in it and set, and `WAIT` is answered (R204,
decisions D25, D26). -/
def Obligations.EnqueueStoresFailsOrWaits : Prop :=
  ∀ (ch : Chan) (b : Byte) (blk : Bool) (s : State),
    (s.muxUsed.toNat < 8 → exec (.muxEnq ch b blk) s = .next { s with
      muxTxq := s.muxTxq.set ((s.muxRpos.toNat + s.muxUsed.toNat) % 8) { ch := ch, b := b } (Nat.mod_lt _ (by decide))
      muxUsed := BitVec.ofNat 4 (s.muxUsed.toNat + 1)
      outputs := s.outputs ++ [.rsp .ok 0] }) ∧
    (8 ≤ s.muxUsed.toNat → blk = false ∨ s.muxEnqw ≠ none → exec (.muxEnq ch b blk) s = .next { s with
      muxErr := s.muxErr.inc
      outputs := s.outputs ++ [.rsp .full 0] }) ∧
    (8 ≤ s.muxUsed.toNat → blk = true → s.muxEnqw = none → exec (.muxEnq ch b blk) s = .next { s with
      muxEnqw := some { ch := ch, b := b, left := s.cfg.enqRetryBudget, sie := s.ie }
      ie := true
      outputs := s.outputs ++ [.rsp .wait 0] })

/-- `EV.ENQRETRY`: enabled only while a wait is open; a poll that finds room stores the byte and ends the wait with `OK`;
one that finds the queue full ends it with a counted `FULL` when one poll was left, else takes one off; a wait's end
restores `IE` by value (R205, decision D26). -/
def Obligations.EnqRetryPollsTheWait : Prop :=
  (∀ s : State, s.muxEnqw = none → exec .evEnqretry s = .refused .notEnabled) ∧
  (∀ (s : State) (w : EnqWait), s.muxEnqw = some w →
    (s.muxUsed.toNat < 8 → exec .evEnqretry s = .next { s with
      muxTxq := s.muxTxq.set ((s.muxRpos.toNat + s.muxUsed.toNat) % 8) { ch := w.ch, b := w.b } (Nat.mod_lt _ (by decide))
      muxUsed := BitVec.ofNat 4 (s.muxUsed.toNat + 1)
      muxEnqw := none, ie := w.sie
      outputs := s.outputs ++ [.enqResult .ok] }) ∧
    (8 ≤ s.muxUsed.toNat → w.left = 1 → exec .evEnqretry s = .next { s with
      muxErr := s.muxErr.inc
      muxEnqw := none, ie := w.sie
      outputs := s.outputs ++ [.enqResult .full] }) ∧
    (8 ≤ s.muxUsed.toNat → w.left ≠ 1 → exec .evEnqretry s = .next { s with
      muxEnqw := some { w with left := w.left - 1 } }))

/-- A blocking enqueue whose queue stays full ends after exactly the polls it has left, with one counted `FULL` and `IE`
restored: by polls alone, and in any run without reset that leaves the queue full, where it waits on through all polls but
the last, reporting nothing, whatever other steps fall between them (R72, R205, decision D26). -/
def Obligations.BlockingEnqueueEndsWithinItsBudget : Prop :=
  (∀ (s : State) (w : EnqWait), Inv s → s.muxEnqw = some w → s.muxUsed.toNat = 8 →
    runInstrs (List.replicate w.left .evEnqretry) s = .next { s with
      muxErr := s.muxErr.inc
      muxEnqw := none, ie := w.sie
      outputs := s.outputs ++ [.enqResult .full] }) ∧
  (∀ (is : List Instr) (s u : State) (w : EnqWait), Inv s → s.muxEnqw = some w → .evReset ∉ is →
    is.count .evEnqretry < w.left → runInstrs is s = .next u →
    (∀ (is₁ is₂ : List Instr) (v : State), is = is₁ ++ is₂ → runInstrs is₁ s = .next v → v.muxUsed.toNat = 8) →
    u.muxEnqw = some { w with left := w.left - is.count .evEnqretry } ∧
    (∀ st : Status, .enqResult st ∉ newOutputs s u) ∧
    (is.count .evEnqretry + 1 = w.left → exec .evEnqretry u = .next { u with
      muxErr := u.muxErr.inc
      muxEnqw := none, ie := w.sie
      outputs := u.outputs ++ [.enqResult .full] }))

/-- `EV.LINK rx`, whole: the low transfer owed, else the high transfer of the oldest entry, else `TX_IDLE` goes out; the
incoming transfer is paired, counted or delivered; nothing else changes; `IE` = 1 is needed (R206, R207, R208, decisions
D22, D23, D24). -/
def Obligations.LinkEventSendsThenReceives : Prop :=
  (∀ (rx : Byte) (s : State), s.ie = false → exec (.evLink rx) s = .refused .notEnabled) ∧
  (∀ (rx : Byte) (s : State), s.ie = true →
    exec (.evLink rx) s = .next { s with
      muxTxlow :=
        match s.muxTxlow with
        | some _ => none
        | none => if 0 < s.muxUsed.toNat then some (loXfer (s.txqLoad s.muxRpos).ch (s.txqLoad s.muxRpos).b) else none
      muxRpos := if s.muxTxlow = none ∧ 0 < s.muxUsed.toNat then s.muxRpos + 1 else s.muxRpos
      muxUsed := if s.muxTxlow = none ∧ 0 < s.muxUsed.toNat then s.muxUsed - 1 else s.muxUsed
      muxErr :=
        match s.muxRxpend with
        | none => if xferHigh rx then s.muxErr else s.muxErr.inc
        | some p => if xferHigh rx ∨ p.ch ≠ xferCh rx then s.muxErr.inc else s.muxErr
      muxRxpend := if xferHigh rx then some { ch := xferCh rx, nib := xferNib rx } else none
      outputs := s.outputs ++
        [.linkTx
          (match s.muxTxlow with
          | some l => l
          | none =>
            if 0 < s.muxUsed.toNat then hiXfer (s.txqLoad s.muxRpos).ch (s.txqLoad s.muxRpos).b else s.cfg.txIdle)] ++
        (match s.muxRxpend with
        | none => []
        | some p =>
          if xferHigh rx = false ∧ p.ch = xferCh rx ∧ s.henLoad (xferCh rx) = true then
            [.chDeliver (xferCh rx) (joinNibbles p.nib (xferNib rx))]
          else []) })

/-- `MUX.REG ch, en` writes one slot of the handler table, and no other slot (R209, decision D27). -/
def Obligations.RegWritesOneSlot : Prop :=
  ∀ (ch : Chan) (en : Bool) (s : State),
    ∃ t, exec (.muxReg ch en) s = .next t ∧
      t = { s with muxHen := t.muxHen, outputs := s.outputs ++ [.rsp .ok 0] } ∧
      ∀ c : Chan, t.henLoad c = if c = ch then en else s.henLoad c

/-- The transmit law: over as many link events as the queue's entries have halves, whatever comes in, the bytes sent are
the entries' pairs, high then low, adjacent and in queue order, and the queue is empty after (R210). -/
def Obligations.QueueDrainsAsAdjacentPairs : Prop :=
  ∀ (rxs : List Byte) (s : State), Inv s → s.ie = true → s.muxTxlow = none → rxs.length = 2 * s.muxUsed.toNat →
    ∃ t, runInstrs (rxs.map .evLink) s = .next t ∧
      linkBytes (newOutputs s t) = (txqEntries s).flatMap (fun e => [hiXfer e.ch e.b, loXfer e.ch e.b]) ∧
      t.muxUsed = 0 ∧ t.muxTxlow = none

/-- The receive law, no byte from a mismatched pair: a delivery comes only from a low transfer whose channel is the pending
one's, with a handler there, once, and made of the two nibbles; a protocol error delivers nothing; after a low transfer
nothing is pending, after a high transfer that transfer is (R211). -/
def Obligations.DeliveriesComeFromMatchingPairs : Prop :=
  ∀ (rx : Byte) (s t : State), exec (.evLink rx) s = .next t →
    (∀ e : TxEntry, e ∈ deliveredBytes (newOutputs s t) →
      ∃ p : RxHigh, s.muxRxpend = some p ∧ xferHigh rx = false ∧ p.ch = xferCh rx ∧ s.henLoad (xferCh rx) = true ∧
        e = { ch := xferCh rx, b := joinNibbles p.nib (xferNib rx) } ∧
        deliveredBytes (newOutputs s t) = [e] ∧ t.muxErr = s.muxErr) ∧
    (linkProtocolError s rx = true → deliveredBytes (newOutputs s t) = [] ∧ t.muxErr = s.muxErr.inc) ∧
    (xferHigh rx = false → t.muxRxpend = none) ∧
    (xferHigh rx = true → t.muxRxpend = some { ch := xferCh rx, nib := xferNib rx })

/-- The round trip: what one block sends while its queue drains, fed to another with handlers for those channels and
nothing pending, is delivered there entry by entry, in order, with no protocol error (R211 (d)). -/
def Obligations.TransportRoundTrip : Prop :=
  ∀ (rxs : List Byte) (s s' r : State), Inv s → s.ie = true → s.muxTxlow = none → rxs.length = 2 * s.muxUsed.toNat →
    runInstrs (rxs.map .evLink) s = .next s' →
    r.ie = true → r.muxRxpend = none → (∀ e ∈ txqEntries s, r.henLoad e.ch = true) →
    ∃ r', runInstrs ((linkBytes (newOutputs s s')).map .evLink) r = .next r' ∧
      deliveredBytes (newOutputs r r') = txqEntries s ∧ r'.muxErr = r.muxErr ∧ r'.muxRxpend = none

/-! ### Reset -/

/-- The values State.reset holds are those of the reset step of R281 (decisions D29, D33), with the default parameters of
R7; `RBUF.MEM` and `MUX.TXQ`, which the spec leaves unspecified, are not spoken of. -/
def Obligations.ResetStateHoldsTheResetValues : Prop :=
  State.reset.ie = false ∧ State.reset.evfFlags = 0 ∧
  State.reset.schOvr = .w8 0 ∧ State.reset.rbufErr = .w8 0 ∧ State.reset.mtdRxcnt = .w16 0 ∧
  State.reset.mtdErrcnt = .w8 0 ∧ State.reset.muxErr = .w8 0 ∧
  State.reset.rbufR = 0 ∧ State.reset.rbufW = 0 ∧
  State.reset.schDiv = 0 ∧ State.reset.schTick = 0 ∧ State.reset.schGuard = false ∧
  State.reset.mtdGap = 0 ∧ State.reset.mtdT15 = 0x0000#16 ∧ State.reset.mtdT35 = 0xFFFF#16 ∧ State.reset.mtdPsc = 0 ∧
  State.reset.muxRpos = 0 ∧ State.reset.muxUsed = 0 ∧ State.reset.muxTxlow = none ∧ State.reset.muxRxpend = none ∧
  (∀ c : Chan, State.reset.henLoad c = false) ∧ State.reset.muxEnqw = none ∧
  State.reset.cfg.cmdW = 48 ∧ State.reset.cfg.rspW = 24 ∧ State.reset.cfg.evfW = 8 ∧ State.reset.cfg.gapW = 16 ∧
  State.reset.cfg.pscW = 3 ∧ State.reset.cfg.rbufSize = 64 ∧ State.reset.cfg.enqRetryBudget = 255 ∧ State.reset.cfg.txIdle = 0x00#8

/-- `EV.RESET` gives from every state, whatever `IE` is, the registers of State.reset, the counters zeroed in their own
widths; it writes neither storage array (log entry 10) and emits nothing (R281, decisions D29, D33). `MTD.T35` becomes
`2^GAP_W - 1`, which is the 0xFFFF of State.reset for `GAP_W` = 16 (for a narrower one the model's choice, log entry 12). -/
def Obligations.ResetStepRestoresTheResetValues : Prop :=
  ∀ s : State,
    exec .evReset s = .next { State.reset with
      cfg := s.cfg
      mtdT35 := BitVec.ofNat 16 (2 ^ s.cfg.gapW - 1)
      schOvr := s.schOvr.zeroed, rbufErr := s.rbufErr.zeroed, mtdRxcnt := s.mtdRxcnt.zeroed
      mtdErrcnt := s.mtdErrcnt.zeroed, muxErr := s.muxErr.zeroed
      rbufMem := s.rbufMem, muxTxq := s.muxTxq
      stimulus := s.stimulus, outputs := s.outputs } ∧
    (s.cfg.gapW = 16 → BitVec.ofNat 16 (2 ^ s.cfg.gapW - 1) = 0xFFFF#16) ∧
    ∀ c : CounterId, (s.counter c).zeroed.value = 0 ∧ (s.counter c).zeroed.max = (s.counter c).max

/-- The reset state satisfies the invariant of R45 (R283). -/
def Obligations.ResetStateIsLegal : Prop := Inv State.reset

/-! ### The whole machine -/

/-- Every step keeps the invariant of R45. -/
def Obligations.EveryStepKeepsTheInvariant : Prop :=
  ∀ s t : State, Inv s → step s = .next t → Inv t

/-- The step relation is total on legal states: every offered word is a step that keeps the invariant, or an event that is
not enabled there, or a word that spells no event; nothing faults (R240, R242, R243). -/
def Obligations.EveryWordHasItsOutcome : Prop :=
  ∀ (s : State) (w : Word) (rest : List Word), Inv s → s.stimulus = w :: rest →
    (∃ t, step s = .next t ∧ Inv t) ∨
    (∃ i, decode w = .ok i ∧ enabled i s = false ∧ step s = .refused .notEnabled) ∨
    (isEventWord w = true ∧ (∃ e, decode w = .error e) ∧ step s = .refused .illFormedEvent)

/-- A step is taken exactly when it is enabled by the table of R241: a gated event while `IE` = 1, `EV.ENQRETRY` while a
wait is open, every command, `EV.GAPTICK`, `EV.HOOKDONE` and `EV.RESET` always; else it is refused and not a no-op
(R241, R242, decisions D3, D5). -/
def Obligations.StepsAreTakenExactlyWhenEnabled : Prop :=
  ∀ (i : Instr) (s : State), Inv s →
    (enabled i s = true → ∃ t, exec i s = .next t) ∧
    (enabled i s = false → exec i s = .refused .notEnabled) ∧
    (enabled i s = true ↔
      match i with
      | .evBasetick => s.ie = true
      | .evMbrx _ _ _ _ => s.ie = true
      | .evConrx _ => s.ie = true
      | .evLink _ => s.ie = true
      | .evEnqretry => s.muxEnqw ≠ none
      | _ => True)

/-- Every command step answers exactly one response, every event step none; a step only appends to the record of outputs,
and neither the parameters nor the offered words are touched by it (R9, R84, decision D2). -/
def Obligations.CommandsAnswerOnceEventsNever : Prop :=
  ∀ (i : Instr) (s t : State), exec i s = .next t →
    t.outputs = s.outputs ++ newOutputs s t ∧
    (newOutputs s t).countP isRsp = (if isEvent i then 0 else 1) ∧
    t.cfg = s.cfg ∧ t.stimulus = s.stimulus

/-- The "written by" column of the state table is complete: a register or array that a step changes is written by that
step's operation (R20, R24, R33). -/
def Obligations.RegistersChangeOnlyByTheirWriters : Prop :=
  ∀ (i : Instr) (s t : State), exec i s = .next t → i ≠ .evReset →
    (t.evfFlags ≠ s.evfFlags → ∃ m, i = .evfSet m ∨ i = .evfClr m) ∧
    (t.ie ≠ s.ie → i = .ienEnter ∨ (∃ saved, i = .ienExit saved) ∨ i = .ienOn ∨ (∃ ch b, i = .muxEnq ch b true) ∨
      i = .evEnqretry) ∧
    (t.schOvr ≠ s.schOvr → i = .evBasetick) ∧
    (t.rbufErr ≠ s.rbufErr → (∃ b, i = .rbufPush b ∨ i = .evConrx b) ∨ i = .rbufFlush) ∧
    (t.mtdRxcnt ≠ s.mtdRxcnt ∨ t.mtdErrcnt ≠ s.mtdErrcnt → ∃ data fe dor pe, i = .evMbrx data fe dor pe) ∧
    (t.muxErr ≠ s.muxErr → (∃ rx, i = .evLink rx) ∨ (∃ ch b blk, i = .muxEnq ch b blk) ∨ i = .evEnqretry) ∧
    (t.rbufR ≠ s.rbufR → i = .rbufPop ∨ i = .rbufFlush) ∧
    (t.rbufW ≠ s.rbufW → (∃ b, i = .rbufPush b ∨ i = .evConrx b) ∨ i = .rbufFlush) ∧
    (t.rbufMem ≠ s.rbufMem → ∃ b, i = .rbufPush b ∨ i = .evConrx b) ∧
    (t.schDiv ≠ s.schDiv ∨ t.schTick ≠ s.schTick → i = .evBasetick) ∧
    (t.schGuard ≠ s.schGuard → i = .evBasetick ∨ i = .evHookdone) ∧
    (t.mtdGap ≠ s.mtdGap → i = .evGaptick ∨ ∃ data fe dor pe, i = .evMbrx data fe dor pe) ∧
    (t.mtdT15 ≠ s.mtdT15 ∨ t.mtdT35 ≠ s.mtdT35 ∨ t.mtdPsc ≠ s.mtdPsc → ∃ t15 t35 psc, i = .mtdSetthr t15 t35 psc) ∧
    (t.muxTxq ≠ s.muxTxq → (∃ ch b blk, i = .muxEnq ch b blk) ∨ i = .evEnqretry) ∧
    (t.muxRpos ≠ s.muxRpos ∨ t.muxTxlow ≠ s.muxTxlow ∨ t.muxRxpend ≠ s.muxRxpend → ∃ rx, i = .evLink rx) ∧
    (t.muxUsed ≠ s.muxUsed → (∃ ch b blk, i = .muxEnq ch b blk) ∨ i = .evEnqretry ∨ ∃ rx, i = .evLink rx) ∧
    (t.muxHen ≠ s.muxHen → ∃ ch en, i = .muxReg ch en) ∧
    (t.muxEnqw ≠ s.muxEnqw → (∃ ch b, i = .muxEnq ch b true) ∨ i = .evEnqretry)

/-- Read commands read, and the writing commands of R67's idempotent list leave the same state when issued twice in a row,
the record of outputs apart (R67). -/
def Obligations.IdempotentCommands : Prop :=
  (∀ (i : Instr) (s t : State), exec i s = .next t →
    ((∃ m, i = .evfTst m) ∨ i = .rbufAvail ∨ (∃ off, i = .rbufPeek off) ∨ (∃ idx, i = .cntRd idx) ∨ i = .mtdRdgap) →
    { t with outputs := s.outputs } = s) ∧
  (∀ (i : Instr) (s t : State), exec i s = .next t →
    ((∃ saved, i = .ienExit saved) ∨ i = .ienOn ∨ i = .rbufFlush ∨ (∃ t15 t35 psc, i = .mtdSetthr t15 t35 psc) ∨
      (∃ ch en, i = .muxReg ch en)) →
    ∃ u, exec i t = .next u ∧ { u with outputs := t.outputs } = t)

/-- Unspecified storage is unobservable: two legal states that differ only in cells not held take the same step, with the
same outputs, to states that again differ only in cells not held; so the reset contents of the arrays and the sentinel
never show (R37, R281). -/
def Obligations.UnspecifiedStorageIsUnobservable : Prop :=
  ∀ (i : Instr) (s t s' : State), Inv s → Inv t → SameVisible s t → exec i s = .next s' →
    ∃ t', exec i t = .next t' ∧ SameVisible s' t' ∧ t'.outputs = s'.outputs

/-- A clocked implementation takes one of the interleavings: without reset, one clock is the run of exactly its enabled
strobes' steps in the fixed order, then the command word; every gated strobe that is not enabled is held back, but for a
console byte that the command's `ConDrain` discards; nothing else is held and nothing is lost but a poll with no wait open;
reset cancels everything else (that then nothing is handed back as held is the model's choice, log entry 21); a clock from a
legal state always completes (R147, R249, R250, R252, decision D3). -/
def Obligations.AClockIsOneInterleaving : Prop :=
  (∀ (k : Strobes) (s t : State) (held : List Instr), k.rst = false → clock k s = .next (t, held) →
    ∃ u : State, runInstrs (k.events.filter fun i => enabled i s) s = .next u ∧
      (match k.cmd with
        | none => t = u
        | some w => presentCommand w u = .next t) ∧
      (∀ i ∈ k.events, enabled i s = false → isGated i = true ∨ (i = .evEnqretry ∧ u.muxEnqw = none)) ∧
      (∀ i : Instr, i ∈ held ↔ i ∈ k.events ∧ isGated i = true ∧ enabled i s = false ∧
        ((∃ d, i = .evConrx d) → .conDrain ∉ newOutputs u t))) ∧
  (∀ (k : Strobes) (s : State), Inv s → ∃ t held, clock k s = .next (t, held)) ∧
  (∀ (k : Strobes) (s : State), k.rst = true → clock k s = .next (resetBlock s, []))
end

