-- ==== Sys2Proof/Laws/Memory.lean ====
section
/-! SUPPORT. The laws of the storage of `RBUF.MEM`: what a read after a write gives, and that a write keeps the canonical
form. -/

namespace Sys2Proof.Machine

theorem readCells_consCell (a : Nat) (v : Byte) (rest : List Host.Cell) (x : Nat)
    (h : x = a → v = Config.unwrittenByte → readCells rest x = Config.unwrittenByte) :
    readCells (consCell a v rest) x = if x = a then v else readCells rest x := by
  unfold consCell
  split
  · next hv =>
    split
    · next hx => rw [h hx hv, hv]
    · rfl
  · rfl

/-- A cell below every listed one reads as an unlisted cell does. -/
theorem readCells_of_below (rest : List Host.Cell) (x : Nat) (h : ∀ c ∈ rest, x < c.1) :
    readCells rest x = Config.unwrittenByte := by
  induction rest with
  | nil => rfl
  | cons c rest ih =>
    obtain ⟨k, w⟩ := c
    have hk : x < k := h (k, w) (by simp)
    simp only [readCells, if_neg (by omega : ¬ x = k)]
    exact ih fun c hc => h c (by simp [hc])

theorem readCells_writeCells (cells : List Host.Cell) (a : Nat) (v : Byte)
    (h : cells.Pairwise (fun p q => p.1 < q.1)) (x : Nat) :
    readCells (writeCells cells a v) x = if x = a then v else readCells cells x := by
  induction cells with
  | nil => exact readCells_consCell a v [] x fun _ _ => rfl
  | cons c rest ih =>
    obtain ⟨k, w⟩ := c
    rw [List.pairwise_cons] at h
    unfold writeCells
    split
    · next hak =>
      refine readCells_consCell a v _ x fun hx _ => readCells_of_below _ x ?_
      intro c hc
      rcases List.mem_cons.mp hc with rfl | hc
      · exact hx ▸ hak
      · exact hx ▸ Nat.lt_trans hak (h.1 c hc)
    · split
      · next hak =>
        rw [readCells_consCell a v rest x fun hx _ =>
          readCells_of_below rest x fun c hc => hx ▸ hak ▸ h.1 c hc]
        simp only [readCells, ← hak]
        split <;> rfl
      · next hne =>
        simp only [readCells, ih h.2]
        split <;> split <;> first | rfl | omega

/-- A read after a write: the written byte in the written cell, every other cell as before (R61). -/
theorem Memory.read_write (m : Memory) (h : m.wf) (a : Nat) (v : Byte) (x : Nat) :
    (m.write a v).read x = if x = a then v else m.read x :=
  readCells_writeCells m.cells a v h.1 x

theorem mem_consCell (a : Nat) (v : Byte) (rest : List Host.Cell) (c : Host.Cell)
    (h : c ∈ consCell a v rest) : (c.1 = a ∧ c.2 ≠ Config.unwrittenByte) ∨ c ∈ rest := by
  unfold consCell at h
  split at h
  · exact .inr h
  · next hv =>
    rcases List.mem_cons.mp h with rfl | h
    · exact .inl ⟨rfl, hv⟩
    · exact .inr h

/-- Every entry after a write is the written one or an entry that was there. -/
theorem mem_writeCells (cells : List Host.Cell) (a : Nat) (v : Byte) (c : Host.Cell)
    (h : c ∈ writeCells cells a v) : (c.1 = a ∧ c.2 ≠ Config.unwrittenByte) ∨ c ∈ cells := by
  induction cells with
  | nil => exact mem_consCell a v [] c h
  | cons d rest ih =>
    obtain ⟨k, w⟩ := d
    unfold writeCells at h
    split at h
    · exact mem_consCell a v _ c h
    · split at h
      · exact (mem_consCell a v rest c h).imp_right fun hc => by simp [hc]
      · rcases List.mem_cons.mp h with rfl | h
        · exact .inr (by simp)
        · exact (ih h).imp_right fun hc => by simp [hc]

theorem pairwise_consCell (a : Nat) (v : Byte) (rest : List Host.Cell)
    (h : rest.Pairwise (fun p q => p.1 < q.1)) (ha : ∀ c ∈ rest, a < c.1) :
    (consCell a v rest).Pairwise (fun p q => p.1 < q.1) := by
  unfold consCell
  split
  · exact h
  · exact List.pairwise_cons.mpr ⟨fun c hc => ha c hc, h⟩

theorem pairwise_writeCells (cells : List Host.Cell) (a : Nat) (v : Byte)
    (h : cells.Pairwise (fun p q => p.1 < q.1)) :
    (writeCells cells a v).Pairwise (fun p q => p.1 < q.1) := by
  induction cells with
  | nil => exact pairwise_consCell a v [] .nil (by simp)
  | cons d rest ih =>
    obtain ⟨k, w⟩ := d
    have hh := List.pairwise_cons.mp h
    unfold writeCells
    split
    · next hak =>
      refine pairwise_consCell a v _ h fun c hc => ?_
      rcases List.mem_cons.mp hc with rfl | hc
      · exact hak
      · exact Nat.lt_trans hak (hh.1 c hc)
    · split
      · next hak => exact pairwise_consCell a v rest hh.2 fun c hc => hak ▸ hh.1 c hc
      · next h1 h2 =>
        refine List.pairwise_cons.mpr ⟨fun c hc => ?_, ih hh.2⟩
        rcases mem_writeCells rest a v c hc with ⟨hc, -⟩ | hc
        · show k < c.1
          omega
        · exact hh.1 c hc

/-- A write keeps the canonical form. -/
theorem Memory.write_wf (m : Memory) (h : m.wf) (a : Nat) (v : Byte) : (m.write a v).wf :=
  ⟨pairwise_writeCells m.cells a v h.1, fun c hc =>
    (mem_writeCells m.cells a v c hc).elim (fun hc => hc.2) (fun hc => h.2 c hc)⟩

/-- A write inside the space lists no cell outside it. -/
theorem Memory.write_inside (m : Memory) (n a : Nat) (v : Byte) (h : ∀ c ∈ m.cells, c.1 < n) (ha : a < n) :
    ∀ c ∈ (m.write a v).cells, c.1 < n := fun c hc =>
  (mem_writeCells m.cells a v c hc).elim (fun hc => hc.1 ▸ ha) (fun hc => h c hc)

/-- Equal readings are equal storages: canonical forms with the same contents are the same data. -/
theorem cells_ext : ∀ (xs ys : List Host.Cell), xs.Pairwise (fun p q => p.1 < q.1) →
    ys.Pairwise (fun p q => p.1 < q.1) → (∀ c ∈ xs, c.2 ≠ Config.unwrittenByte) →
    (∀ c ∈ ys, c.2 ≠ Config.unwrittenByte) → (∀ a, readCells xs a = readCells ys a) → xs = ys
  | [], [], _, _, _, _, _ => rfl
  | [], (k, w) :: ys, _, _, _, hy, h => by
    have := h k
    simp only [readCells, if_true] at this
    exact absurd this.symm (hy (k, w) (by simp))
  | (k, w) :: xs, [], _, _, hx, _, h => by
    have := h k
    simp only [readCells, if_true] at this
    exact absurd this (hx (k, w) (by simp))
  | (k, w) :: xs, (l, u) :: ys, px, py, hx, hy, h => by
    have px' := List.pairwise_cons.mp px
    have py' := List.pairwise_cons.mp py
    have hkl : k = l := by
      rcases Nat.lt_trichotomy k l with hlt | heq | hlt
      · have := h k
        rw [readCells_of_below ((l, u) :: ys) k (by
          intro c hc
          rcases List.mem_cons.mp hc with rfl | hc
          · exact hlt
          · exact Nat.lt_trans hlt (py'.1 c hc))] at this
        simp only [readCells, if_true] at this
        exact absurd this (hx (k, w) (by simp))
      · exact heq
      · have := h l
        rw [readCells_of_below ((k, w) :: xs) l (by
          intro c hc
          rcases List.mem_cons.mp hc with rfl | hc
          · exact hlt
          · exact Nat.lt_trans hlt (px'.1 c hc))] at this
        simp only [readCells, if_true] at this
        exact absurd this.symm (hy (l, u) (by simp))
    subst hkl
    have hwu : w = u := by simpa [readCells] using h k
    subst hwu
    congr 1
    refine cells_ext xs ys px'.2 py'.2 (fun c hc => hx c (by simp [hc])) (fun c hc => hy c (by simp [hc])) fun a => ?_
    by_cases ha : a = k
    · subst ha
      rw [readCells_of_below xs a px'.1, readCells_of_below ys a py'.1]
    · simpa [readCells, ha] using h a

/-- Storages in canonical form that read alike are equal data. -/
theorem Memory.ext_read (m n : Memory) (hm : m.wf) (hn : n.wf) (h : ∀ a, m.read a = n.read a) : m = n := by
  obtain ⟨xs⟩ := m
  obtain ⟨ys⟩ := n
  congr 1
  exact cells_ext xs ys hm.1 hn.1 hm.2 hn.2 h

end Sys2Proof.Machine
end

