-- ==== Sys2Proof/Laws/State.lean ====
section
/-! SUPPORT. What each named update of State leaves in each field, one lemma per field per update. -/

namespace Sys2Proof.Machine

/-! ### `State.emit` -/

@[simp] theorem State.emit_cfg (s : State) (o : Output) : (s.emit o).cfg = s.cfg := rfl
@[simp] theorem State.emit_ie (s : State) (o : Output) : (s.emit o).ie = s.ie := rfl
@[simp] theorem State.emit_evfFlags (s : State) (o : Output) : (s.emit o).evfFlags = s.evfFlags := rfl
@[simp] theorem State.emit_schOvr (s : State) (o : Output) : (s.emit o).schOvr = s.schOvr := rfl
@[simp] theorem State.emit_rbufErr (s : State) (o : Output) : (s.emit o).rbufErr = s.rbufErr := rfl
@[simp] theorem State.emit_mtdRxcnt (s : State) (o : Output) : (s.emit o).mtdRxcnt = s.mtdRxcnt := rfl
@[simp] theorem State.emit_mtdErrcnt (s : State) (o : Output) : (s.emit o).mtdErrcnt = s.mtdErrcnt := rfl
@[simp] theorem State.emit_muxErr (s : State) (o : Output) : (s.emit o).muxErr = s.muxErr := rfl
@[simp] theorem State.emit_rbufR (s : State) (o : Output) : (s.emit o).rbufR = s.rbufR := rfl
@[simp] theorem State.emit_rbufW (s : State) (o : Output) : (s.emit o).rbufW = s.rbufW := rfl
@[simp] theorem State.emit_rbufMem (s : State) (o : Output) : (s.emit o).rbufMem = s.rbufMem := rfl
@[simp] theorem State.emit_schDiv (s : State) (o : Output) : (s.emit o).schDiv = s.schDiv := rfl
@[simp] theorem State.emit_schTick (s : State) (o : Output) : (s.emit o).schTick = s.schTick := rfl
@[simp] theorem State.emit_schGuard (s : State) (o : Output) : (s.emit o).schGuard = s.schGuard := rfl
@[simp] theorem State.emit_mtdGap (s : State) (o : Output) : (s.emit o).mtdGap = s.mtdGap := rfl
@[simp] theorem State.emit_mtdT15 (s : State) (o : Output) : (s.emit o).mtdT15 = s.mtdT15 := rfl
@[simp] theorem State.emit_mtdT35 (s : State) (o : Output) : (s.emit o).mtdT35 = s.mtdT35 := rfl
@[simp] theorem State.emit_mtdPsc (s : State) (o : Output) : (s.emit o).mtdPsc = s.mtdPsc := rfl
@[simp] theorem State.emit_muxTxq (s : State) (o : Output) : (s.emit o).muxTxq = s.muxTxq := rfl
@[simp] theorem State.emit_muxRpos (s : State) (o : Output) : (s.emit o).muxRpos = s.muxRpos := rfl
@[simp] theorem State.emit_muxUsed (s : State) (o : Output) : (s.emit o).muxUsed = s.muxUsed := rfl
@[simp] theorem State.emit_muxTxlow (s : State) (o : Output) : (s.emit o).muxTxlow = s.muxTxlow := rfl
@[simp] theorem State.emit_muxRxpend (s : State) (o : Output) : (s.emit o).muxRxpend = s.muxRxpend := rfl
@[simp] theorem State.emit_muxHen (s : State) (o : Output) : (s.emit o).muxHen = s.muxHen := rfl
@[simp] theorem State.emit_muxEnqw (s : State) (o : Output) : (s.emit o).muxEnqw = s.muxEnqw := rfl
@[simp] theorem State.emit_stimulus (s : State) (o : Output) : (s.emit o).stimulus = s.stimulus := rfl
@[simp] theorem State.emit_outputs (s : State) (o : Output) : (s.emit o).outputs = s.outputs ++ [o] := rfl

/-! ### `State.respond` -/

@[simp] theorem State.respond_cfg (s : State) (st : Status) (v : Half) : (s.respond st v).cfg = s.cfg := rfl
@[simp] theorem State.respond_ie (s : State) (st : Status) (v : Half) : (s.respond st v).ie = s.ie := rfl
@[simp] theorem State.respond_evfFlags (s : State) (st : Status) (v : Half) : (s.respond st v).evfFlags = s.evfFlags := rfl
@[simp] theorem State.respond_schOvr (s : State) (st : Status) (v : Half) : (s.respond st v).schOvr = s.schOvr := rfl
@[simp] theorem State.respond_rbufErr (s : State) (st : Status) (v : Half) : (s.respond st v).rbufErr = s.rbufErr := rfl
@[simp] theorem State.respond_mtdRxcnt (s : State) (st : Status) (v : Half) : (s.respond st v).mtdRxcnt = s.mtdRxcnt := rfl
@[simp] theorem State.respond_mtdErrcnt (s : State) (st : Status) (v : Half) : (s.respond st v).mtdErrcnt = s.mtdErrcnt := rfl
@[simp] theorem State.respond_muxErr (s : State) (st : Status) (v : Half) : (s.respond st v).muxErr = s.muxErr := rfl
@[simp] theorem State.respond_rbufR (s : State) (st : Status) (v : Half) : (s.respond st v).rbufR = s.rbufR := rfl
@[simp] theorem State.respond_rbufW (s : State) (st : Status) (v : Half) : (s.respond st v).rbufW = s.rbufW := rfl
@[simp] theorem State.respond_rbufMem (s : State) (st : Status) (v : Half) : (s.respond st v).rbufMem = s.rbufMem := rfl
@[simp] theorem State.respond_schDiv (s : State) (st : Status) (v : Half) : (s.respond st v).schDiv = s.schDiv := rfl
@[simp] theorem State.respond_schTick (s : State) (st : Status) (v : Half) : (s.respond st v).schTick = s.schTick := rfl
@[simp] theorem State.respond_schGuard (s : State) (st : Status) (v : Half) : (s.respond st v).schGuard = s.schGuard := rfl
@[simp] theorem State.respond_mtdGap (s : State) (st : Status) (v : Half) : (s.respond st v).mtdGap = s.mtdGap := rfl
@[simp] theorem State.respond_mtdT15 (s : State) (st : Status) (v : Half) : (s.respond st v).mtdT15 = s.mtdT15 := rfl
@[simp] theorem State.respond_mtdT35 (s : State) (st : Status) (v : Half) : (s.respond st v).mtdT35 = s.mtdT35 := rfl
@[simp] theorem State.respond_mtdPsc (s : State) (st : Status) (v : Half) : (s.respond st v).mtdPsc = s.mtdPsc := rfl
@[simp] theorem State.respond_muxTxq (s : State) (st : Status) (v : Half) : (s.respond st v).muxTxq = s.muxTxq := rfl
@[simp] theorem State.respond_muxRpos (s : State) (st : Status) (v : Half) : (s.respond st v).muxRpos = s.muxRpos := rfl
@[simp] theorem State.respond_muxUsed (s : State) (st : Status) (v : Half) : (s.respond st v).muxUsed = s.muxUsed := rfl
@[simp] theorem State.respond_muxTxlow (s : State) (st : Status) (v : Half) : (s.respond st v).muxTxlow = s.muxTxlow := rfl
@[simp] theorem State.respond_muxRxpend (s : State) (st : Status) (v : Half) : (s.respond st v).muxRxpend = s.muxRxpend := rfl
@[simp] theorem State.respond_muxHen (s : State) (st : Status) (v : Half) : (s.respond st v).muxHen = s.muxHen := rfl
@[simp] theorem State.respond_muxEnqw (s : State) (st : Status) (v : Half) : (s.respond st v).muxEnqw = s.muxEnqw := rfl
@[simp] theorem State.respond_stimulus (s : State) (st : Status) (v : Half) : (s.respond st v).stimulus = s.stimulus := rfl
@[simp] theorem State.respond_outputs (s : State) (st : Status) (v : Half) : (s.respond st v).outputs = s.outputs ++ [.rsp st v] := rfl

/-! ### `State.henStore` -/

@[simp] theorem State.henStore_cfg (s : State) (ch : Chan) (en : Bool) : (s.henStore ch en).cfg = s.cfg := rfl
@[simp] theorem State.henStore_ie (s : State) (ch : Chan) (en : Bool) : (s.henStore ch en).ie = s.ie := rfl
@[simp] theorem State.henStore_evfFlags (s : State) (ch : Chan) (en : Bool) : (s.henStore ch en).evfFlags = s.evfFlags := rfl
@[simp] theorem State.henStore_schOvr (s : State) (ch : Chan) (en : Bool) : (s.henStore ch en).schOvr = s.schOvr := rfl
@[simp] theorem State.henStore_rbufErr (s : State) (ch : Chan) (en : Bool) : (s.henStore ch en).rbufErr = s.rbufErr := rfl
@[simp] theorem State.henStore_mtdRxcnt (s : State) (ch : Chan) (en : Bool) : (s.henStore ch en).mtdRxcnt = s.mtdRxcnt := rfl
@[simp] theorem State.henStore_mtdErrcnt (s : State) (ch : Chan) (en : Bool) : (s.henStore ch en).mtdErrcnt = s.mtdErrcnt := rfl
@[simp] theorem State.henStore_muxErr (s : State) (ch : Chan) (en : Bool) : (s.henStore ch en).muxErr = s.muxErr := rfl
@[simp] theorem State.henStore_rbufR (s : State) (ch : Chan) (en : Bool) : (s.henStore ch en).rbufR = s.rbufR := rfl
@[simp] theorem State.henStore_rbufW (s : State) (ch : Chan) (en : Bool) : (s.henStore ch en).rbufW = s.rbufW := rfl
@[simp] theorem State.henStore_rbufMem (s : State) (ch : Chan) (en : Bool) : (s.henStore ch en).rbufMem = s.rbufMem := rfl
@[simp] theorem State.henStore_schDiv (s : State) (ch : Chan) (en : Bool) : (s.henStore ch en).schDiv = s.schDiv := rfl
@[simp] theorem State.henStore_schTick (s : State) (ch : Chan) (en : Bool) : (s.henStore ch en).schTick = s.schTick := rfl
@[simp] theorem State.henStore_schGuard (s : State) (ch : Chan) (en : Bool) : (s.henStore ch en).schGuard = s.schGuard := rfl
@[simp] theorem State.henStore_mtdGap (s : State) (ch : Chan) (en : Bool) : (s.henStore ch en).mtdGap = s.mtdGap := rfl
@[simp] theorem State.henStore_mtdT15 (s : State) (ch : Chan) (en : Bool) : (s.henStore ch en).mtdT15 = s.mtdT15 := rfl
@[simp] theorem State.henStore_mtdT35 (s : State) (ch : Chan) (en : Bool) : (s.henStore ch en).mtdT35 = s.mtdT35 := rfl
@[simp] theorem State.henStore_mtdPsc (s : State) (ch : Chan) (en : Bool) : (s.henStore ch en).mtdPsc = s.mtdPsc := rfl
@[simp] theorem State.henStore_muxTxq (s : State) (ch : Chan) (en : Bool) : (s.henStore ch en).muxTxq = s.muxTxq := rfl
@[simp] theorem State.henStore_muxRpos (s : State) (ch : Chan) (en : Bool) : (s.henStore ch en).muxRpos = s.muxRpos := rfl
@[simp] theorem State.henStore_muxUsed (s : State) (ch : Chan) (en : Bool) : (s.henStore ch en).muxUsed = s.muxUsed := rfl
@[simp] theorem State.henStore_muxTxlow (s : State) (ch : Chan) (en : Bool) : (s.henStore ch en).muxTxlow = s.muxTxlow := rfl
@[simp] theorem State.henStore_muxRxpend (s : State) (ch : Chan) (en : Bool) : (s.henStore ch en).muxRxpend = s.muxRxpend := rfl
@[simp] theorem State.henStore_muxHen (s : State) (ch : Chan) (en : Bool) : (s.henStore ch en).muxHen = s.muxHen.set ch.toNat en ch.isLt := rfl
@[simp] theorem State.henStore_muxEnqw (s : State) (ch : Chan) (en : Bool) : (s.henStore ch en).muxEnqw = s.muxEnqw := rfl
@[simp] theorem State.henStore_stimulus (s : State) (ch : Chan) (en : Bool) : (s.henStore ch en).stimulus = s.stimulus := rfl
@[simp] theorem State.henStore_outputs (s : State) (ch : Chan) (en : Bool) : (s.henStore ch en).outputs = s.outputs := rfl

/-! ### `txqStore` -/

@[simp] theorem txqStore_cfg (ch : Chan) (b : Byte) (s : State) : (txqStore ch b s).cfg = s.cfg := rfl
@[simp] theorem txqStore_ie (ch : Chan) (b : Byte) (s : State) : (txqStore ch b s).ie = s.ie := rfl
@[simp] theorem txqStore_evfFlags (ch : Chan) (b : Byte) (s : State) : (txqStore ch b s).evfFlags = s.evfFlags := rfl
@[simp] theorem txqStore_schOvr (ch : Chan) (b : Byte) (s : State) : (txqStore ch b s).schOvr = s.schOvr := rfl
@[simp] theorem txqStore_rbufErr (ch : Chan) (b : Byte) (s : State) : (txqStore ch b s).rbufErr = s.rbufErr := rfl
@[simp] theorem txqStore_mtdRxcnt (ch : Chan) (b : Byte) (s : State) : (txqStore ch b s).mtdRxcnt = s.mtdRxcnt := rfl
@[simp] theorem txqStore_mtdErrcnt (ch : Chan) (b : Byte) (s : State) : (txqStore ch b s).mtdErrcnt = s.mtdErrcnt := rfl
@[simp] theorem txqStore_muxErr (ch : Chan) (b : Byte) (s : State) : (txqStore ch b s).muxErr = s.muxErr := rfl
@[simp] theorem txqStore_rbufR (ch : Chan) (b : Byte) (s : State) : (txqStore ch b s).rbufR = s.rbufR := rfl
@[simp] theorem txqStore_rbufW (ch : Chan) (b : Byte) (s : State) : (txqStore ch b s).rbufW = s.rbufW := rfl
@[simp] theorem txqStore_rbufMem (ch : Chan) (b : Byte) (s : State) : (txqStore ch b s).rbufMem = s.rbufMem := rfl
@[simp] theorem txqStore_schDiv (ch : Chan) (b : Byte) (s : State) : (txqStore ch b s).schDiv = s.schDiv := rfl
@[simp] theorem txqStore_schTick (ch : Chan) (b : Byte) (s : State) : (txqStore ch b s).schTick = s.schTick := rfl
@[simp] theorem txqStore_schGuard (ch : Chan) (b : Byte) (s : State) : (txqStore ch b s).schGuard = s.schGuard := rfl
@[simp] theorem txqStore_mtdGap (ch : Chan) (b : Byte) (s : State) : (txqStore ch b s).mtdGap = s.mtdGap := rfl
@[simp] theorem txqStore_mtdT15 (ch : Chan) (b : Byte) (s : State) : (txqStore ch b s).mtdT15 = s.mtdT15 := rfl
@[simp] theorem txqStore_mtdT35 (ch : Chan) (b : Byte) (s : State) : (txqStore ch b s).mtdT35 = s.mtdT35 := rfl
@[simp] theorem txqStore_mtdPsc (ch : Chan) (b : Byte) (s : State) : (txqStore ch b s).mtdPsc = s.mtdPsc := rfl
@[simp] theorem txqStore_muxTxq (ch : Chan) (b : Byte) (s : State) : (txqStore ch b s).muxTxq = s.muxTxq.set s.txqWpos.toNat { ch := ch, b := b } s.txqWpos.isLt := rfl
@[simp] theorem txqStore_muxRpos (ch : Chan) (b : Byte) (s : State) : (txqStore ch b s).muxRpos = s.muxRpos := rfl
@[simp] theorem txqStore_muxUsed (ch : Chan) (b : Byte) (s : State) : (txqStore ch b s).muxUsed = s.muxUsed + 1 := rfl
@[simp] theorem txqStore_muxTxlow (ch : Chan) (b : Byte) (s : State) : (txqStore ch b s).muxTxlow = s.muxTxlow := rfl
@[simp] theorem txqStore_muxRxpend (ch : Chan) (b : Byte) (s : State) : (txqStore ch b s).muxRxpend = s.muxRxpend := rfl
@[simp] theorem txqStore_muxHen (ch : Chan) (b : Byte) (s : State) : (txqStore ch b s).muxHen = s.muxHen := rfl
@[simp] theorem txqStore_muxEnqw (ch : Chan) (b : Byte) (s : State) : (txqStore ch b s).muxEnqw = s.muxEnqw := rfl
@[simp] theorem txqStore_stimulus (ch : Chan) (b : Byte) (s : State) : (txqStore ch b s).stimulus = s.stimulus := rfl
@[simp] theorem txqStore_outputs (ch : Chan) (b : Byte) (s : State) : (txqStore ch b s).outputs = s.outputs := rfl

/-! ### `endWait` -/

@[simp] theorem endWait_cfg (w : EnqWait) (st : Status) (s : State) : (endWait w st s).cfg = s.cfg := rfl
@[simp] theorem endWait_ie (w : EnqWait) (st : Status) (s : State) : (endWait w st s).ie = w.sie := rfl
@[simp] theorem endWait_evfFlags (w : EnqWait) (st : Status) (s : State) : (endWait w st s).evfFlags = s.evfFlags := rfl
@[simp] theorem endWait_schOvr (w : EnqWait) (st : Status) (s : State) : (endWait w st s).schOvr = s.schOvr := rfl
@[simp] theorem endWait_rbufErr (w : EnqWait) (st : Status) (s : State) : (endWait w st s).rbufErr = s.rbufErr := rfl
@[simp] theorem endWait_mtdRxcnt (w : EnqWait) (st : Status) (s : State) : (endWait w st s).mtdRxcnt = s.mtdRxcnt := rfl
@[simp] theorem endWait_mtdErrcnt (w : EnqWait) (st : Status) (s : State) : (endWait w st s).mtdErrcnt = s.mtdErrcnt := rfl
@[simp] theorem endWait_muxErr (w : EnqWait) (st : Status) (s : State) : (endWait w st s).muxErr = s.muxErr := rfl
@[simp] theorem endWait_rbufR (w : EnqWait) (st : Status) (s : State) : (endWait w st s).rbufR = s.rbufR := rfl
@[simp] theorem endWait_rbufW (w : EnqWait) (st : Status) (s : State) : (endWait w st s).rbufW = s.rbufW := rfl
@[simp] theorem endWait_rbufMem (w : EnqWait) (st : Status) (s : State) : (endWait w st s).rbufMem = s.rbufMem := rfl
@[simp] theorem endWait_schDiv (w : EnqWait) (st : Status) (s : State) : (endWait w st s).schDiv = s.schDiv := rfl
@[simp] theorem endWait_schTick (w : EnqWait) (st : Status) (s : State) : (endWait w st s).schTick = s.schTick := rfl
@[simp] theorem endWait_schGuard (w : EnqWait) (st : Status) (s : State) : (endWait w st s).schGuard = s.schGuard := rfl
@[simp] theorem endWait_mtdGap (w : EnqWait) (st : Status) (s : State) : (endWait w st s).mtdGap = s.mtdGap := rfl
@[simp] theorem endWait_mtdT15 (w : EnqWait) (st : Status) (s : State) : (endWait w st s).mtdT15 = s.mtdT15 := rfl
@[simp] theorem endWait_mtdT35 (w : EnqWait) (st : Status) (s : State) : (endWait w st s).mtdT35 = s.mtdT35 := rfl
@[simp] theorem endWait_mtdPsc (w : EnqWait) (st : Status) (s : State) : (endWait w st s).mtdPsc = s.mtdPsc := rfl
@[simp] theorem endWait_muxTxq (w : EnqWait) (st : Status) (s : State) : (endWait w st s).muxTxq = s.muxTxq := rfl
@[simp] theorem endWait_muxRpos (w : EnqWait) (st : Status) (s : State) : (endWait w st s).muxRpos = s.muxRpos := rfl
@[simp] theorem endWait_muxUsed (w : EnqWait) (st : Status) (s : State) : (endWait w st s).muxUsed = s.muxUsed := rfl
@[simp] theorem endWait_muxTxlow (w : EnqWait) (st : Status) (s : State) : (endWait w st s).muxTxlow = s.muxTxlow := rfl
@[simp] theorem endWait_muxRxpend (w : EnqWait) (st : Status) (s : State) : (endWait w st s).muxRxpend = s.muxRxpend := rfl
@[simp] theorem endWait_muxHen (w : EnqWait) (st : Status) (s : State) : (endWait w st s).muxHen = s.muxHen := rfl
@[simp] theorem endWait_muxEnqw (w : EnqWait) (st : Status) (s : State) : (endWait w st s).muxEnqw = none := rfl
@[simp] theorem endWait_stimulus (w : EnqWait) (st : Status) (s : State) : (endWait w st s).stimulus = s.stimulus := rfl
@[simp] theorem endWait_outputs (w : EnqWait) (st : Status) (s : State) : (endWait w st s).outputs = s.outputs ++ [.enqResult st] := rfl

/-! ### `hookReturn` -/

@[simp] theorem hookReturn_cfg (s : State) : (hookReturn s).cfg = s.cfg := rfl
@[simp] theorem hookReturn_ie (s : State) : (hookReturn s).ie = s.ie := rfl
@[simp] theorem hookReturn_evfFlags (s : State) : (hookReturn s).evfFlags = s.evfFlags := rfl
@[simp] theorem hookReturn_schOvr (s : State) : (hookReturn s).schOvr = s.schOvr := rfl
@[simp] theorem hookReturn_rbufErr (s : State) : (hookReturn s).rbufErr = s.rbufErr := rfl
@[simp] theorem hookReturn_mtdRxcnt (s : State) : (hookReturn s).mtdRxcnt = s.mtdRxcnt := rfl
@[simp] theorem hookReturn_mtdErrcnt (s : State) : (hookReturn s).mtdErrcnt = s.mtdErrcnt := rfl
@[simp] theorem hookReturn_muxErr (s : State) : (hookReturn s).muxErr = s.muxErr := rfl
@[simp] theorem hookReturn_rbufR (s : State) : (hookReturn s).rbufR = s.rbufR := rfl
@[simp] theorem hookReturn_rbufW (s : State) : (hookReturn s).rbufW = s.rbufW := rfl
@[simp] theorem hookReturn_rbufMem (s : State) : (hookReturn s).rbufMem = s.rbufMem := rfl
@[simp] theorem hookReturn_schDiv (s : State) : (hookReturn s).schDiv = s.schDiv := rfl
@[simp] theorem hookReturn_schTick (s : State) : (hookReturn s).schTick = s.schTick := rfl
@[simp] theorem hookReturn_schGuard (s : State) : (hookReturn s).schGuard = false := rfl
@[simp] theorem hookReturn_mtdGap (s : State) : (hookReturn s).mtdGap = s.mtdGap := rfl
@[simp] theorem hookReturn_mtdT15 (s : State) : (hookReturn s).mtdT15 = s.mtdT15 := rfl
@[simp] theorem hookReturn_mtdT35 (s : State) : (hookReturn s).mtdT35 = s.mtdT35 := rfl
@[simp] theorem hookReturn_mtdPsc (s : State) : (hookReturn s).mtdPsc = s.mtdPsc := rfl
@[simp] theorem hookReturn_muxTxq (s : State) : (hookReturn s).muxTxq = s.muxTxq := rfl
@[simp] theorem hookReturn_muxRpos (s : State) : (hookReturn s).muxRpos = s.muxRpos := rfl
@[simp] theorem hookReturn_muxUsed (s : State) : (hookReturn s).muxUsed = s.muxUsed := rfl
@[simp] theorem hookReturn_muxTxlow (s : State) : (hookReturn s).muxTxlow = s.muxTxlow := rfl
@[simp] theorem hookReturn_muxRxpend (s : State) : (hookReturn s).muxRxpend = s.muxRxpend := rfl
@[simp] theorem hookReturn_muxHen (s : State) : (hookReturn s).muxHen = s.muxHen := rfl
@[simp] theorem hookReturn_muxEnqw (s : State) : (hookReturn s).muxEnqw = s.muxEnqw := rfl
@[simp] theorem hookReturn_stimulus (s : State) : (hookReturn s).stimulus = s.stimulus := rfl
@[simp] theorem hookReturn_outputs (s : State) : (hookReturn s).outputs = s.outputs := rfl

/-! ### `resetBlock` -/

@[simp] theorem resetBlock_cfg (s : State) : (resetBlock s).cfg = s.cfg := rfl
@[simp] theorem resetBlock_ie (s : State) : (resetBlock s).ie = false := rfl
@[simp] theorem resetBlock_evfFlags (s : State) : (resetBlock s).evfFlags = 0 := rfl
@[simp] theorem resetBlock_schOvr (s : State) : (resetBlock s).schOvr = s.schOvr.zeroed := rfl
@[simp] theorem resetBlock_rbufErr (s : State) : (resetBlock s).rbufErr = s.rbufErr.zeroed := rfl
@[simp] theorem resetBlock_mtdRxcnt (s : State) : (resetBlock s).mtdRxcnt = s.mtdRxcnt.zeroed := rfl
@[simp] theorem resetBlock_mtdErrcnt (s : State) : (resetBlock s).mtdErrcnt = s.mtdErrcnt.zeroed := rfl
@[simp] theorem resetBlock_muxErr (s : State) : (resetBlock s).muxErr = s.muxErr.zeroed := rfl
@[simp] theorem resetBlock_rbufR (s : State) : (resetBlock s).rbufR = 0 := rfl
@[simp] theorem resetBlock_rbufW (s : State) : (resetBlock s).rbufW = 0 := rfl
@[simp] theorem resetBlock_rbufMem (s : State) : (resetBlock s).rbufMem = s.rbufMem := rfl
@[simp] theorem resetBlock_schDiv (s : State) : (resetBlock s).schDiv = 0 := rfl
@[simp] theorem resetBlock_schTick (s : State) : (resetBlock s).schTick = 0 := rfl
@[simp] theorem resetBlock_schGuard (s : State) : (resetBlock s).schGuard = false := rfl
@[simp] theorem resetBlock_mtdGap (s : State) : (resetBlock s).mtdGap = 0 := rfl
@[simp] theorem resetBlock_mtdT15 (s : State) : (resetBlock s).mtdT15 = 0 := rfl
@[simp] theorem resetBlock_mtdT35 (s : State) : (resetBlock s).mtdT35 = BitVec.ofNat 16 s.cfg.gapMax := rfl
@[simp] theorem resetBlock_mtdPsc (s : State) : (resetBlock s).mtdPsc = 0 := rfl
@[simp] theorem resetBlock_muxTxq (s : State) : (resetBlock s).muxTxq = s.muxTxq := rfl
@[simp] theorem resetBlock_muxRpos (s : State) : (resetBlock s).muxRpos = 0 := rfl
@[simp] theorem resetBlock_muxUsed (s : State) : (resetBlock s).muxUsed = 0 := rfl
@[simp] theorem resetBlock_muxTxlow (s : State) : (resetBlock s).muxTxlow = none := rfl
@[simp] theorem resetBlock_muxRxpend (s : State) : (resetBlock s).muxRxpend = none := rfl
@[simp] theorem resetBlock_muxHen (s : State) : (resetBlock s).muxHen = Vector.replicate 8 false := rfl
@[simp] theorem resetBlock_muxEnqw (s : State) : (resetBlock s).muxEnqw = none := rfl
@[simp] theorem resetBlock_stimulus (s : State) : (resetBlock s).stimulus = s.stimulus := rfl
@[simp] theorem resetBlock_outputs (s : State) : (resetBlock s).outputs = s.outputs := rfl

/-! ### `State.count` -/

@[simp] theorem State.count_cfg (s : State) (c : CounterId) : (s.count c).cfg = s.cfg := by cases c <;> rfl
@[simp] theorem State.count_ie (s : State) (c : CounterId) : (s.count c).ie = s.ie := by cases c <;> rfl
@[simp] theorem State.count_evfFlags (s : State) (c : CounterId) : (s.count c).evfFlags = s.evfFlags := by cases c <;> rfl
@[simp] theorem State.count_schOvr (s : State) (c : CounterId) :
    (s.count c).schOvr = if c = .schOvr then s.schOvr.inc else s.schOvr := by cases c <;> rfl
@[simp] theorem State.count_rbufErr (s : State) (c : CounterId) :
    (s.count c).rbufErr = if c = .rbufErr then s.rbufErr.inc else s.rbufErr := by cases c <;> rfl
@[simp] theorem State.count_mtdRxcnt (s : State) (c : CounterId) :
    (s.count c).mtdRxcnt = if c = .mtdRxcnt then s.mtdRxcnt.inc else s.mtdRxcnt := by cases c <;> rfl
@[simp] theorem State.count_mtdErrcnt (s : State) (c : CounterId) :
    (s.count c).mtdErrcnt = if c = .mtdErrcnt then s.mtdErrcnt.inc else s.mtdErrcnt := by cases c <;> rfl
@[simp] theorem State.count_muxErr (s : State) (c : CounterId) :
    (s.count c).muxErr = if c = .muxErr then s.muxErr.inc else s.muxErr := by cases c <;> rfl
@[simp] theorem State.count_rbufR (s : State) (c : CounterId) : (s.count c).rbufR = s.rbufR := by cases c <;> rfl
@[simp] theorem State.count_rbufW (s : State) (c : CounterId) : (s.count c).rbufW = s.rbufW := by cases c <;> rfl
@[simp] theorem State.count_rbufMem (s : State) (c : CounterId) : (s.count c).rbufMem = s.rbufMem := by cases c <;> rfl
@[simp] theorem State.count_schDiv (s : State) (c : CounterId) : (s.count c).schDiv = s.schDiv := by cases c <;> rfl
@[simp] theorem State.count_schTick (s : State) (c : CounterId) : (s.count c).schTick = s.schTick := by cases c <;> rfl
@[simp] theorem State.count_schGuard (s : State) (c : CounterId) : (s.count c).schGuard = s.schGuard := by cases c <;> rfl
@[simp] theorem State.count_mtdGap (s : State) (c : CounterId) : (s.count c).mtdGap = s.mtdGap := by cases c <;> rfl
@[simp] theorem State.count_mtdT15 (s : State) (c : CounterId) : (s.count c).mtdT15 = s.mtdT15 := by cases c <;> rfl
@[simp] theorem State.count_mtdT35 (s : State) (c : CounterId) : (s.count c).mtdT35 = s.mtdT35 := by cases c <;> rfl
@[simp] theorem State.count_mtdPsc (s : State) (c : CounterId) : (s.count c).mtdPsc = s.mtdPsc := by cases c <;> rfl
@[simp] theorem State.count_muxTxq (s : State) (c : CounterId) : (s.count c).muxTxq = s.muxTxq := by cases c <;> rfl
@[simp] theorem State.count_muxRpos (s : State) (c : CounterId) : (s.count c).muxRpos = s.muxRpos := by cases c <;> rfl
@[simp] theorem State.count_muxUsed (s : State) (c : CounterId) : (s.count c).muxUsed = s.muxUsed := by cases c <;> rfl
@[simp] theorem State.count_muxTxlow (s : State) (c : CounterId) : (s.count c).muxTxlow = s.muxTxlow := by cases c <;> rfl
@[simp] theorem State.count_muxRxpend (s : State) (c : CounterId) : (s.count c).muxRxpend = s.muxRxpend := by cases c <;> rfl
@[simp] theorem State.count_muxHen (s : State) (c : CounterId) : (s.count c).muxHen = s.muxHen := by cases c <;> rfl
@[simp] theorem State.count_muxEnqw (s : State) (c : CounterId) : (s.count c).muxEnqw = s.muxEnqw := by cases c <;> rfl
@[simp] theorem State.count_stimulus (s : State) (c : CounterId) : (s.count c).stimulus = s.stimulus := by cases c <;> rfl
@[simp] theorem State.count_outputs (s : State) (c : CounterId) : (s.count c).outputs = s.outputs := by cases c <;> rfl

/-- Counting reaches the counter it names and no other. -/
theorem State.counter_count (s : State) (c d : CounterId) :
    (s.count c).counter d = if c = d then (s.counter d).inc else s.counter d := by
  cases c <;> cases d <;> rfl

end Sys2Proof.Machine
end

