-- ==== Sys2Proof/Laws/Ops.lean ====
section
/-! SUPPORT. Once for each shared operation, everything it can do: the lemmas the provers cite instead of unfolding. -/

namespace Sys2Proof.Machine

/-! ### Widths and legality -/

/-- A value fits exactly when it is below `2^w`. -/
@[simp] theorem fitsWidth_iff {n w : Nat} (v : BitVec n) : fitsWidth w v = true ↔ v.toNat < 2 ^ w := by
  simp [fitsWidth]

/-- At the width of its type every value fits: with the default parameters every operand is legal. -/
theorem fitsWidth_self {n w : Nat} (v : BitVec n) (h : n ≤ w) : fitsWidth w v = true :=
  (fitsWidth_iff v).2 (Nat.lt_of_lt_of_le v.isLt (Nat.pow_le_pow_right (by decide) h))

/-- Everything a command with width-limited operands can do: its rule, or `REFUSED`. -/
theorem legalCommand_cases {fits : Bool} {rule : State → State} {s t : State}
    (h : legalCommand fits rule s = .next t) :
    (fits = true ∧ t = rule s) ∨ (fits = false ∧ t = s.respond .refused 0) := by
  unfold legalCommand at h
  cases fits <;> cases h
  · exact .inr ⟨rfl, rfl⟩
  · exact .inl ⟨rfl, rfl⟩

/-- For `GAP_W` ≤ 16 the largest gap fits 16 bits. -/
theorem gapMax_lt (c : Config) (h : c.wf) : c.gapMax < 65536 := by
  have h1 : 2 ^ c.gapW ≤ 2 ^ 16 := Nat.pow_le_pow_right (by decide) h.2.2.2.2.2.2.1.2
  have h2 := Nat.two_pow_pos c.gapW
  unfold Config.gapMax
  omega

/-- The largest gap is at least 1, so that two thresholds fit below it. -/
theorem gapMax_pos (c : Config) (h : c.wf) : 0 < c.gapMax := by
  have h1 : 2 ^ 1 ≤ 2 ^ c.gapW := Nat.pow_le_pow_right (by decide) h.2.2.2.2.2.2.1.1
  unfold Config.gapMax
  omega

/-! ### Outputs -/

/-- What was appended to the record is what the step added. -/
theorem newOutputs_eq {s t : State} {os : List Output} (h : t.outputs = s.outputs ++ os) : newOutputs s t = os := by
  simp [newOutputs, h]

/-! ### Counters -/

@[simp] theorem Counter.zeroed_value (c : Counter) : c.zeroed.value = 0 := by cases c <;> rfl

@[simp] theorem Counter.zeroed_max (c : Counter) : c.zeroed.max = c.max := by cases c <;> rfl

@[simp] theorem Counter.inc_max (c : Counter) : c.inc.max = c.max := by cases c <;> rfl

/-- A counter is within its width (R45). -/
theorem Counter.value_le_max (c : Counter) : c.value.toNat ≤ c.max := by
  cases c with
  | w8 v => simp only [Counter.value, Counter.max, BitVec.toNat_setWidth]; omega
  | w16 v => simp only [Counter.value, Counter.max]; omega

/-! ### Receive-buffer indices -/

theorem State.rbufNext_lt (s : State) (h : s.cfg.wf) (i : BitVec 8) : s.rbufNext i < s.cfg.rbufSize :=
  Nat.mod_lt _ (by have := h.1; omega)

/-- The stored successor index is the successor: 8 bits hold every index. -/
theorem State.rbufNext_toNat (s : State) (h : s.cfg.wf) (i : BitVec 8) :
    (BitVec.ofNat 8 (s.rbufNext i)).toNat = s.rbufNext i := by
  have h1 := s.rbufNext_lt h i
  have h2 := h.2.1
  rw [BitVec.toNat_ofNat, Nat.mod_eq_of_lt (by omega)]

theorem State.rbufHeld_lt (s : State) (h : s.cfg.wf) : s.rbufHeld < s.cfg.rbufSize :=
  Nat.mod_lt _ (by have := h.1; omega)

/-- The successor index without the remainder, inside the space. -/
theorem State.rbufNext_eq (s : State) (i : BitVec 8) (hi : i.toNat < s.cfg.rbufSize) :
    s.rbufNext i = if i.toNat + 1 = s.cfg.rbufSize then 0 else i.toNat + 1 := by
  unfold State.rbufNext
  split
  · next h => rw [h, Nat.mod_self]
  · next h => exact Nat.mod_eq_of_lt (by omega)

/-- The number held without the remainder, for legal indices. -/
theorem State.rbufHeld_eq (s : State) (hw : s.rbufW.toNat < s.cfg.rbufSize) :
    s.rbufHeld = if s.rbufR.toNat ≤ s.rbufW.toNat then s.rbufW.toNat - s.rbufR.toNat
      else s.rbufW.toNat + s.cfg.rbufSize - s.rbufR.toNat := by
  unfold State.rbufHeld
  split
  · next h =>
    rw [show s.rbufW.toNat + s.cfg.rbufSize - s.rbufR.toNat = s.rbufW.toNat - s.rbufR.toNat + s.cfg.rbufSize by omega,
      Nat.add_mod_right, Nat.mod_eq_of_lt (by omega)]
  · next h => exact Nat.mod_eq_of_lt (by omega)

/-- Full means N-1 bytes held (R26). -/
theorem State.rbufFull_iff (s : State) (hr : s.rbufR.toNat < s.cfg.rbufSize) (hw : s.rbufW.toNat < s.cfg.rbufSize)
    (hn : 2 ≤ s.cfg.rbufSize) : s.rbufFull = true ↔ s.rbufHeld = s.cfg.rbufSize - 1 := by
  simp only [State.rbufFull, beq_iff_eq, s.rbufNext_eq s.rbufW hw, s.rbufHeld_eq hw]
  split <;> split <;> omega

/-- Empty means no byte held (R26). -/
theorem State.rbufHeld_zero_iff (s : State) (hr : s.rbufR.toNat < s.cfg.rbufSize)
    (hw : s.rbufW.toNat < s.cfg.rbufSize) : s.rbufHeld = 0 ↔ s.rbufR = s.rbufW := by
  rw [s.rbufHeld_eq hw]
  constructor
  · intro h
    apply BitVec.eq_of_toNat_eq
    split at h <;> omega
  · rintro h
    rw [h]
    simp

/-! ### `rbuf_push` -/

/-- Everything `rbuf_push` can do when it answers a next state (R141). -/
theorem rbufPush_cases {b : Byte} {s t : State} (h : rbufPush b s = .next t) :
    s.rbufW.toNat < s.cfg.rbufSize ∧
    ((s.rbufFull = true ∧ t = { s with rbufMem := s.rbufMem.write s.rbufW.toNat 0, rbufErr := s.rbufErr.inc }) ∨
     (s.rbufFull = false ∧ t = { s with
        rbufMem := s.rbufMem.write s.rbufW.toNat b
        rbufW := BitVec.ofNat 8 (s.rbufNext s.rbufW) })) := by
  unfold rbufPush State.rbufStore at h
  by_cases hw : s.rbufW.toNat < s.cfg.rbufSize
  · refine ⟨hw, ?_⟩
    cases hf : s.rbufFull <;> simp only [hf, hw, if_true, Bool.false_eq_true, if_false] at h
    · exact .inr ⟨rfl, by simpa using h.symm⟩
    · exact .inl ⟨rfl, by simpa [State.count] using h.symm⟩
  · cases hf : s.rbufFull <;> simp [hf, hw] at h

/-- `rbuf_push` answers a next state whenever the write index is in the space. -/
theorem rbufPush_next (b : Byte) (s : State) (hw : s.rbufW.toNat < s.cfg.rbufSize) :
    ∃ t, rbufPush b s = .next t := by
  unfold rbufPush State.rbufStore
  cases s.rbufFull <;> simp [hw]

/-- `rbuf_push` never refuses. -/
theorem rbufPush_not_refused (b : Byte) (s : State) (r : Refusal) : rbufPush b s ≠ .refused r := by
  unfold rbufPush State.rbufStore
  by_cases hw : s.rbufW.toNat < s.cfg.rbufSize <;> cases s.rbufFull <;> simp [hw]

/-! ### Acceptance -/

/-- A gated event answers a next state only with `IE` = 1, and then its rule's (R254). -/
theorem acceptGated_next {rule : State → Host.Outcome State Fault Refusal} {s t : State}
    (h : acceptGated rule s = .next t) : s.ie = true ∧ rule s = .next t := by
  unfold acceptGated at h
  split at h
  · next hie => exact ⟨hie, h⟩
  · cases h

/-- With `IE` = 0 a gated event is not enabled (R242). -/
theorem acceptGated_masked (rule : State → Host.Outcome State Fault Refusal) (s : State) (h : s.ie = false) :
    acceptGated rule s = .refused .notEnabled := by
  simp [acceptGated, h]

/-- With `IE` = 1 a gated event's rule is applied (R254). -/
theorem acceptGated_enabled (rule : State → Host.Outcome State Fault Refusal) (s : State) (h : s.ie = true) :
    acceptGated rule s = rule s := by
  simp [acceptGated, h]

/-! ### The scheduler -/

/-- Everything a base tick can do (R162). -/
theorem baseTick_cases (s : State) :
    (s.schDiv < 4#3 ∧ baseTick s = { s with schDiv := s.schDiv + 1 }) ∨
    (¬ s.schDiv < 4#3 ∧ s.schGuard = true ∧
      baseTick s = { s with schDiv := 0, schTick := s.schTick + 1, schOvr := s.schOvr.inc }) ∨
    (¬ s.schDiv < 4#3 ∧ s.schGuard = false ∧ lsbIndex (s.schTick + 1) = none ∧
      baseTick s = { s with schDiv := 0, schTick := s.schTick + 1 }) ∨
    (¬ s.schDiv < 4#3 ∧ s.schGuard = false ∧ ∃ k, lsbIndex (s.schTick + 1) = some k ∧
      baseTick s = { s with
        schDiv := 0, schTick := s.schTick + 1, schGuard := true, outputs := s.outputs ++ [.hookFire k] }) := by
  unfold baseTick
  by_cases hd : s.schDiv < 4#3
  · exact .inl ⟨hd, if_pos hd⟩
  · rw [if_neg hd]
    unfold schedTick
    cases hg : s.schGuard
    · cases hl : lsbIndex (s.schTick + 1) with
      | none =>
        refine .inr (.inr (.inl ⟨hd, rfl, rfl, ?_⟩))
        simp only [hl, Bool.false_eq_true, if_false]
      | some k =>
        refine .inr (.inr (.inr ⟨hd, rfl, k, rfl, ?_⟩))
        simp only [hl, Bool.false_eq_true, if_false]
        rfl
    · exact .inr (.inl ⟨hd, rfl, rfl⟩)

/-! ### The transport -/

/-- Everything the transmit half of a link event can do (R207). -/
theorem linkTx_cases (s : State) :
    (∃ l, s.muxTxlow = some l ∧ linkTx s = { s with muxTxlow := none, outputs := s.outputs ++ [.linkTx l] }) ∨
    (s.muxTxlow = none ∧ 0#4 < s.muxUsed ∧ linkTx s = { s with
      muxTxlow := some (loXfer (s.txqLoad s.muxRpos).ch (s.txqLoad s.muxRpos).b)
      muxRpos := s.muxRpos + 1
      muxUsed := s.muxUsed - 1
      outputs := s.outputs ++ [.linkTx (hiXfer (s.txqLoad s.muxRpos).ch (s.txqLoad s.muxRpos).b)] }) ∨
    (s.muxTxlow = none ∧ ¬ 0#4 < s.muxUsed ∧ linkTx s = { s with outputs := s.outputs ++ [.linkTx s.cfg.txIdle] }) := by
  unfold linkTx
  cases ht : s.muxTxlow with
  | some l => exact .inl ⟨l, rfl, rfl⟩
  | none =>
    by_cases hu : 0#4 < s.muxUsed
    · exact .inr (.inl ⟨rfl, hu, by simp [hu, State.emit]⟩)
    · exact .inr (.inr ⟨rfl, hu, by simp [hu, State.emit, ht]⟩)

/-- Everything the receive half of a link event can do (R208). -/
theorem linkRx_cases (x : Byte) (s : State) :
    (xferHigh x = true ∧ s.muxRxpend = none ∧
      linkRx x s = { s with muxRxpend := some { ch := xferCh x, nib := xferNib x } }) ∨
    (xferHigh x = true ∧ (∃ p, s.muxRxpend = some p) ∧ linkRx x s = { s with
      muxErr := s.muxErr.inc, muxRxpend := some { ch := xferCh x, nib := xferNib x } }) ∨
    (xferHigh x = false ∧ s.muxRxpend = none ∧ linkRx x s = { s with muxErr := s.muxErr.inc }) ∨
    (xferHigh x = false ∧ (∃ p, s.muxRxpend = some p ∧ p.ch ≠ xferCh x) ∧
      linkRx x s = { s with muxErr := s.muxErr.inc, muxRxpend := none }) ∨
    (xferHigh x = false ∧ ∃ p, s.muxRxpend = some p ∧ p.ch = xferCh x ∧ s.henLoad (xferCh x) = true ∧
      linkRx x s = { s with
        muxRxpend := none
        outputs := s.outputs ++ [.chDeliver (xferCh x) (joinNibbles p.nib (xferNib x))] }) ∨
    (xferHigh x = false ∧ ∃ p, s.muxRxpend = some p ∧ p.ch = xferCh x ∧ s.henLoad (xferCh x) = false ∧
      linkRx x s = { s with muxRxpend := none }) := by
  unfold linkRx linkRxHigh linkRxLow
  cases hx : xferHigh x <;> cases hp : s.muxRxpend with
  | none => simp [State.count, hp]
  | some p =>
    by_cases hc : p.ch = xferCh x
    · cases hh : s.henLoad (xferCh x) <;> simp_all [State.emit]
    · simp [hc, State.count]

/-- Everything one poll of a waiting enqueue can do (R205). -/
theorem enqPoll_cases (w : EnqWait) (s : State) :
    (s.txqRoom = true ∧ enqPoll w s = endWait w .ok (txqStore w.ch w.b s)) ∨
    (s.txqRoom = false ∧ w.left = 1 ∧ enqPoll w s = endWait w .full (s.count .muxErr)) ∨
    (s.txqRoom = false ∧ w.left ≠ 1 ∧ enqPoll w s = { s with muxEnqw := some { w with left := w.left - 1 } }) := by
  unfold enqPoll
  cases s.txqRoom
  · by_cases hl : w.left = 1
    · exact .inr (.inl ⟨rfl, hl, by simp [hl]⟩)
    · exact .inr (.inr ⟨rfl, hl, by simp [hl]⟩)
  · exact .inl ⟨rfl, rfl⟩

end Sys2Proof.Machine
end

