-- ==== Sys2Proof/Laws/Exec.lean ====
section
/-! SUPPORT. Once for each instruction whose rule has cases, everything it can do when `exec` answers a next state: the
inversion lemmas that a claim over all instructions cites instead of unfolding the meanings. -/

namespace Sys2Proof.Machine

/-- The number of bytes held before the sum is reduced, as an integer remainder (R26, R144). -/
theorem State.rbufHeld_int (s : State) (hn : s.rbufR.toNat < s.cfg.rbufSize) :
    ((s.rbufW.toNat : Int) - (s.rbufR.toNat : Int)) % (s.cfg.rbufSize : Int) = (s.rbufHeld : Int) := by
  unfold State.rbufHeld
  have h : ((s.rbufW.toNat + s.cfg.rbufSize - s.rbufR.toNat : Nat) : Int)
      = (s.rbufW.toNat : Int) - s.rbufR.toNat + s.cfg.rbufSize := by omega
  rw [Int.natCast_mod, h, Int.add_emod_right]

/-- `CNT.RD` answers one counter or `REFUSED` (R112). -/
theorem exec_cntRd_cases {idx : BitVec 3} {s t : State} (h : exec (.cntRd idx) s = .next t) :
    (∃ c, counterOfIdx idx = some c ∧ t = s.respond .ok (s.counter c).value) ∨
    (counterOfIdx idx = none ∧ t = s.respond .refused 0) := by
  simp only [exec, execCntRd] at h
  cases hc : counterOfIdx idx with
  | none => simp only [hc] at h; cases h; exact .inr ⟨rfl, rfl⟩
  | some c => simp only [hc] at h; cases h; exact .inl ⟨c, rfl, rfl⟩

/-- `RBUF.PUSH` is `rbuf_push`, then `OK` (R142). -/
theorem exec_rbufPush_cases {b : Byte} {s t : State} (h : exec (.rbufPush b) s = .next t) :
    ∃ u, rbufPush b s = .next u ∧ t = u.respond .ok 0 := by
  simp only [exec, execRbufPush] at h
  split at h
  · next u hu => cases h; exact ⟨u, hu, rfl⟩
  · cases h
  · cases h

/-- `RBUF.POP` answers `EMPTY`, or the byte at the read index, which advances (R143). -/
theorem exec_rbufPop_cases {s t : State} (h : exec .rbufPop s = .next t) :
    (s.rbufR = s.rbufW ∧ t = s.respond .empty 0) ∨
    (s.rbufR ≠ s.rbufW ∧ s.rbufR.toNat < s.cfg.rbufSize ∧
      t = { s with rbufR := BitVec.ofNat 8 (s.rbufNext s.rbufR) }.respond .ok (zext16 (s.rbufMem.read s.rbufR.toNat))) := by
  simp only [exec, execRbufPop, State.rbufLoad] at h
  by_cases he : s.rbufR = s.rbufW
  · rw [if_pos he] at h; cases h; exact .inl ⟨he, rfl⟩
  · rw [if_neg he] at h
    by_cases hr : s.rbufR.toNat < s.cfg.rbufSize
    · rw [if_pos hr] at h; cases h; exact .inr ⟨he, hr, rfl⟩
    · rw [if_neg hr] at h; cases h

/-- `RBUF.PEEK` answers `RANGE`, or the byte `off` places after the oldest (R145). -/
theorem exec_rbufPeek_cases {off : Byte} {s t : State} (h : exec (.rbufPeek off) s = .next t) :
    (s.rbufHeld ≤ off.toNat ∧ t = s.respond .range 0) ∨
    (off.toNat < s.rbufHeld ∧
      t = s.respond .ok (zext16 (s.rbufMem.read ((s.rbufR.toNat + off.toNat) % s.cfg.rbufSize)))) := by
  simp only [exec, execRbufPeek, State.rbufLoad] at h
  by_cases he : s.rbufHeld ≤ off.toNat
  · rw [if_pos he] at h; cases h; exact .inl ⟨he, rfl⟩
  · rw [if_neg he] at h
    by_cases hr : (s.rbufR.toNat + off.toNat) % s.cfg.rbufSize < s.cfg.rbufSize
    · rw [if_pos hr] at h; cases h; exact .inr ⟨by omega, rfl⟩
    · rw [if_neg hr] at h; cases h

/-- `EVF.SET` sets and reports, or refuses a mask beyond `EVF_W` (R121). -/
theorem exec_evfSet_cases {m : Byte} {s t : State} (h : exec (.evfSet m) s = .next t) :
    (m.toNat < 2 ^ s.cfg.evfW ∧
      t = { s with evfFlags := evfSetBits s.evfFlags m }.respond .ok (boolVal (evfMember s.evfFlags m))) ∨
    (2 ^ s.cfg.evfW ≤ m.toNat ∧ t = s.respond .refused 0) := by
  simp only [exec, execEvfSet] at h
  rcases legalCommand_cases h with ⟨hf, ht⟩ | ⟨hf, ht⟩ <;> simp [fitsWidth] at hf
  · exact .inl ⟨hf, ht⟩
  · exact .inr ⟨hf, ht⟩

/-- `EVF.CLR` clears and reports, or refuses a mask beyond `EVF_W` (R122). -/
theorem exec_evfClr_cases {m : Byte} {s t : State} (h : exec (.evfClr m) s = .next t) :
    (m.toNat < 2 ^ s.cfg.evfW ∧
      t = { s with evfFlags := evfClearBits s.evfFlags m }.respond .ok (boolVal (evfMember s.evfFlags m))) ∨
    (2 ^ s.cfg.evfW ≤ m.toNat ∧ t = s.respond .refused 0) := by
  simp only [exec, execEvfClr] at h
  rcases legalCommand_cases h with ⟨hf, ht⟩ | ⟨hf, ht⟩ <;> simp [fitsWidth] at hf
  · exact .inl ⟨hf, ht⟩
  · exact .inr ⟨hf, ht⟩

/-- `EVF.TST` reports, or refuses a mask beyond `EVF_W` (R123). -/
theorem exec_evfTst_cases {m : Byte} {s t : State} (h : exec (.evfTst m) s = .next t) :
    (m.toNat < 2 ^ s.cfg.evfW ∧ t = s.respond .ok (boolVal (evfMember s.evfFlags m))) ∨
    (2 ^ s.cfg.evfW ≤ m.toNat ∧ t = s.respond .refused 0) := by
  simp only [exec, execEvfTst] at h
  rcases legalCommand_cases h with ⟨hf, ht⟩ | ⟨hf, ht⟩ <;> simp [fitsWidth] at hf
  · exact .inl ⟨hf, ht⟩
  · exact .inr ⟨hf, ht⟩

/-- `MTD.SETTHR` refuses operands beyond their widths, answers `BADARG`, or writes all three registers (R183). -/
theorem exec_mtdSetthr_cases {t15 t35 : Half} {psc : BitVec 3} {s t : State}
    (h : exec (.mtdSetthr t15 t35 psc) s = .next t) :
    (t = s.respond .refused 0 ∧
      ¬ (t15.toNat < 2 ^ s.cfg.gapW ∧ t35.toNat < 2 ^ s.cfg.gapW ∧ psc.toNat < 2 ^ s.cfg.pscW)) ∨
    (t35 ≤ t15 ∧ t = s.respond .badarg 0) ∨
    (t15 < t35 ∧ t35.toNat < 2 ^ s.cfg.gapW ∧ psc.toNat < 2 ^ s.cfg.pscW ∧
      t = ({ s with mtdT15 := t15, mtdT35 := t35, mtdPsc := psc }.emit (.pscSel psc)).respond .ok 0) := by
  simp only [exec, execMtdSetthr] at h
  rcases legalCommand_cases h with ⟨hf, ht⟩ | ⟨hf, ht⟩
  · simp only [Bool.and_eq_true, fitsWidth_iff] at hf
    unfold setThresholds at ht
    by_cases hb : t35 ≤ t15
    · rw [if_pos hb] at ht; exact .inr (.inl ⟨hb, ht⟩)
    · rw [if_neg hb] at ht; exact .inr (.inr ⟨BitVec.not_le.mp hb, hf.1.2, hf.2, ht⟩)
  · refine .inl ⟨ht, fun ⟨h1, h2, h3⟩ => ?_⟩
    rw [← fitsWidth_iff] at h1 h2 h3
    simp [h1, h2, h3] at hf

/-- `MUX.ENQ` stores, fails, or starts to wait (R204). -/
theorem exec_muxEnq_cases {ch : Chan} {b : Byte} {blk : Bool} {s t : State}
    (h : exec (.muxEnq ch b blk) s = .next t) :
    (s.txqRoom = true ∧ t = (txqStore ch b s).respond .ok 0) ∨
    (s.txqRoom = false ∧ (blk = false ∨ s.muxEnqw.isSome = true) ∧ t = (s.count .muxErr).respond .full 0) ∨
    (s.txqRoom = false ∧ blk = true ∧ s.muxEnqw = none ∧ t = { s with
      muxEnqw := some { ch := ch, b := b, left := s.cfg.enqRetryBudget, sie := s.ie }
      ie := true }.respond .wait 0) := by
  simp only [exec, execMuxEnq] at h
  cases hr : s.txqRoom <;> simp only [hr, if_true, Bool.false_eq_true, if_false] at h
  · cases blk <;> simp only [Bool.not_true, Bool.not_false, if_true, Bool.false_eq_true, if_false] at h
    · cases h; exact .inr (.inl ⟨rfl, .inl rfl, rfl⟩)
    · cases hw : s.muxEnqw <;> simp only [hw, Option.isSome_none, Option.isSome_some, if_true, Bool.false_eq_true,
        if_false] at h
      · cases h; exact .inr (.inr ⟨rfl, rfl, rfl, rfl⟩)
      · cases h; exact .inr (.inl ⟨rfl, .inr rfl, rfl⟩)
  · cases h; exact .inl ⟨rfl, rfl⟩

/-- `EV.BASETICK` is the base tick, with `IE` = 1 (R162). -/
theorem exec_evBasetick_cases {s t : State} (h : exec .evBasetick s = .next t) : s.ie = true ∧ t = baseTick s := by
  obtain ⟨hie, h⟩ := acceptGated_next (rule := fun t => .next (baseTick t)) h
  cases h
  exact ⟨hie, rfl⟩

/-- `EV.GAPTICK` counts, or stays at the timer's maximum (R181). -/
theorem exec_evGaptick_cases {s t : State} (h : exec .evGaptick s = .next t) :
    (s.mtdGap.toNat < s.cfg.gapMax ∧ t = { s with mtdGap := s.mtdGap + 1 }) ∨
    (¬ s.mtdGap.toNat < s.cfg.gapMax ∧ t = s) := by
  simp only [exec, execEvGaptick] at h
  by_cases hg : s.mtdGap.toNat < s.cfg.gapMax
  · rw [if_pos hg] at h; cases h; exact .inl ⟨hg, rfl⟩
  · rw [if_neg hg] at h; cases h; exact .inr ⟨hg, rfl⟩

/-- `EV.MBRX` is the byte's reception, with `IE` = 1 (R184). -/
theorem exec_evMbrx_cases {data : Byte} {fe dor pe : Bool} {s t : State} (h : exec (.evMbrx data fe dor pe) s = .next t) :
    s.ie = true ∧ t = mbReceive data (uartError fe dor pe) s := by
  obtain ⟨hie, h⟩ := acceptGated_next (rule := fun t => .next (mbReceive data (uartError fe dor pe) t)) h
  cases h
  exact ⟨hie, rfl⟩

/-- `EV.CONRX` is `rbuf_push`, with `IE` = 1 (R146). -/
theorem exec_evConrx_cases {data : Byte} {s t : State} (h : exec (.evConrx data) s = .next t) :
    s.ie = true ∧ rbufPush data s = .next t :=
  acceptGated_next (rule := rbufPush data) h

/-- `EV.LINK` is the transmit half, then the receive half, with `IE` = 1 (R206). -/
theorem exec_evLink_cases {rx : Byte} {s t : State} (h : exec (.evLink rx) s = .next t) :
    s.ie = true ∧ t = linkRx rx (linkTx s) := by
  obtain ⟨hie, h⟩ := acceptGated_next (rule := fun t => .next (linkRx rx (linkTx t))) h
  cases h
  exact ⟨hie, rfl⟩

/-- `EV.ENQRETRY` is one poll of the open wait (R205). -/
theorem exec_evEnqretry_cases {s t : State} (h : exec .evEnqretry s = .next t) :
    ∃ w, s.muxEnqw = some w ∧ t = enqPoll w s := by
  simp only [exec, execEvEnqretry] at h
  cases hw : s.muxEnqw with
  | none => simp only [hw] at h; cases h
  | some w => simp only [hw] at h; cases h; exact ⟨w, rfl, rfl⟩

end Sys2Proof.Machine
end

