-- ==== Sys2Proof/Laws/PerInstr.lean ====
section
/-! SUPPORT. Statements for all instructions, made per instruction. Family `TableRow`: the word the encoder writes matches
the instruction's row of the opcode map, `(w AND mask) = match` (spec/30_encoding.md R83). -/

namespace Sys2Proof

/-- The `match` column of R83. -/
def rowMatch : Instr → Word
  | .ienEnter => 0x010000000000#48
  | .ienExit _ => 0x020000000000#48
  | .ienOn => 0x030000000000#48
  | .cntRd _ => 0x080000000000#48
  | .evfSet _ => 0x100000000000#48
  | .evfClr _ => 0x110000000000#48
  | .evfTst _ => 0x120000000000#48
  | .rbufPush _ => 0x200000000000#48
  | .rbufPop => 0x210000000000#48
  | .rbufAvail => 0x220000000000#48
  | .rbufPeek _ => 0x230000000000#48
  | .rbufFlush => 0x240000000000#48
  | .mtdSetthr _ _ _ => 0x300000000000#48
  | .mtdRdgap => 0x310000000000#48
  | .muxEnq _ _ _ => 0x400000000000#48
  | .muxReg _ _ => 0x410000000000#48
  | .evBasetick => 0x800000000000#48
  | .evHookdone => 0x810000000000#48
  | .evGaptick => 0x900000000000#48
  | .evMbrx _ _ _ _ => 0x910000000000#48
  | .evConrx _ => 0xA00000000000#48
  | .evLink _ => 0xB00000000000#48
  | .evEnqretry => 0xB10000000000#48
  | .evReset => 0xFF0000000000#48

/-- The `mask` column of R83. -/
def rowMask : Instr → Word
  | .ienEnter => 0xFFFFFFFFFFFF#48
  | .ienExit _ => 0xFFFFFFFFFFFE#48
  | .ienOn => 0xFFFFFFFFFFFF#48
  | .cntRd _ => 0xFFFFFFFFFFF8#48
  | .evfSet _ => 0xFFFFFFFFFF00#48
  | .evfClr _ => 0xFFFFFFFFFF00#48
  | .evfTst _ => 0xFFFFFFFFFF00#48
  | .rbufPush _ => 0xFFFFFFFFFF00#48
  | .rbufPop => 0xFFFFFFFFFFFF#48
  | .rbufAvail => 0xFFFFFFFFFFFF#48
  | .rbufPeek _ => 0xFFFFFFFFFF00#48
  | .rbufFlush => 0xFFFFFFFFFFFF#48
  | .mtdSetthr _ _ _ => 0xFFF800000000#48
  | .mtdRdgap => 0xFFFFFFFFFFFF#48
  | .muxEnq _ _ _ => 0xFFFFFFFFE800#48
  | .muxReg _ _ => 0xFFFFFFFFF8FE#48
  | .evBasetick => 0xFFFFFFFFFFFF#48
  | .evHookdone => 0xFFFFFFFFFFFF#48
  | .evGaptick => 0xFFFFFFFFFFFF#48
  | .evMbrx _ _ _ _ => 0xFFFFFFFFF800#48
  | .evConrx _ => 0xFFFFFFFFFF00#48
  | .evLink _ => 0xFFFFFFFFFF00#48
  | .evEnqretry => 0xFFFFFFFFFFFF#48
  | .evReset => 0xFFFFFFFFFFFF#48

namespace Laws.TableRow

/-- The encoded word matches the instruction's row of the opcode map. -/
def Statement (i : Instr) : Prop := encode i &&& rowMask i = rowMatch i

theorem and_ones8 (a : BitVec 8) : a &&& 0xFF#8 = a := BitVec.and_allOnes

/-- A mask of the opcode and an area mask, on an opcode and an area. -/
theorem split_area (opc : BitVec 8) (area mask : BitVec 40) (h : area &&& mask = 0#40) :
    (opc ++ area : Word) &&& (0xFF#8 ++ mask : Word) = (opc ++ 0#40 : Word) := by
  show (opc ++ area) &&& (0xFF#8 ++ mask) = opc ++ 0#40
  rw [BitVec.and_append, and_ones8, h]

theorem areaB (m : Byte) : (0#32 ++ m : BitVec 40) &&& 0xFFFFFFFF00#40 = 0#40 := by
  show (0#32 ++ m) &&& (0xFFFFFFFF#32 ++ 0x00#8) = 0#32 ++ 0#8
  rw [BitVec.and_append, BitVec.zero_and, BitVec.and_zero]

theorem areaT (t15 t35 : Half) (psc : BitVec 3) :
    (0#5 ++ psc ++ t35 ++ t15 : BitVec 40) &&& 0xF800000000#40 = 0#40 := by
  show (0#5 ++ psc ++ t35 ++ t15) &&& (0x1F#5 ++ 0#3 ++ 0#16 ++ 0#16) = 0#5 ++ 0#3 ++ 0#16 ++ 0#16
  simp only [BitVec.and_append, BitVec.zero_and, BitVec.and_zero]

theorem areaQ (ch : Chan) (b : Byte) (blk : BitVec 1) :
    (0#27 ++ blk ++ 0#1 ++ ch ++ b : BitVec 40) &&& 0xFFFFFFE800#40 = 0#40 := by
  show (0#27 ++ blk ++ 0#1 ++ ch ++ b) &&& (0x7FFFFFF#27 ++ 0#1 ++ 1#1 ++ 0#3 ++ 0#8) = 0#27 ++ 0#1 ++ 0#1 ++ 0#3 ++ 0#8
  simp only [BitVec.and_append, BitVec.zero_and, BitVec.and_zero]

theorem areaH (ch : Chan) (en : BitVec 1) :
    (0#29 ++ ch ++ 0#7 ++ en : BitVec 40) &&& 0xFFFFFFF8FE#40 = 0#40 := by
  show (0#29 ++ ch ++ 0#7 ++ en) &&& (0x1FFFFFFF#29 ++ 0#3 ++ 0x7F#7 ++ 0#1) = 0#29 ++ 0#3 ++ 0#7 ++ 0#1
  simp only [BitVec.and_append, BitVec.zero_and, BitVec.and_zero]

theorem areaR (data : Byte) (fe dor pe : BitVec 1) :
    (0#29 ++ fe ++ dor ++ pe ++ data : BitVec 40) &&& 0xFFFFFFF800#40 = 0#40 := by
  show (0#29 ++ fe ++ dor ++ pe ++ data) &&& (0x1FFFFFFF#29 ++ 0#1 ++ 0#1 ++ 0#1 ++ 0#8)
    = 0#29 ++ 0#1 ++ 0#1 ++ 0#1 ++ 0#8
  simp only [BitVec.and_append, BitVec.zero_and, BitVec.and_zero]

theorem areaI (idx : BitVec 3) : (0#37 ++ idx : BitVec 40) &&& 0xFFFFFFFFF8#40 = 0#40 := by
  show (0#37 ++ idx) &&& (0x1FFFFFFFFF#37 ++ 0#3) = 0#37 ++ 0#3
  rw [BitVec.and_append, BitVec.zero_and, BitVec.and_zero]

theorem areaS (p : BitVec 1) : (0#39 ++ p : BitVec 40) &&& 0xFFFFFFFFFE#40 = 0#40 := by
  show (0#39 ++ p) &&& (0x7FFFFFFFFF#39 ++ 0#1) = 0#39 ++ 0#1
  rw [BitVec.and_append, BitVec.zero_and, BitVec.and_zero]

theorem ienEnter : Statement .ienEnter := rfl
theorem ienExit (saved : Bool) : Statement (.ienExit saved) := split_area 0x02#8 _ _ (areaS (BitVec.ofBool saved))
theorem ienOn : Statement .ienOn := rfl
theorem cntRd (idx : BitVec 3) : Statement (.cntRd idx) := split_area 0x08#8 _ _ (areaI idx)
theorem evfSet (m : Byte) : Statement (.evfSet m) := split_area 0x10#8 _ _ (areaB m)
theorem evfClr (m : Byte) : Statement (.evfClr m) := split_area 0x11#8 _ _ (areaB m)
theorem evfTst (m : Byte) : Statement (.evfTst m) := split_area 0x12#8 _ _ (areaB m)
theorem rbufPush (b : Byte) : Statement (.rbufPush b) := split_area 0x20#8 _ _ (areaB b)
theorem rbufPop : Statement .rbufPop := rfl
theorem rbufAvail : Statement .rbufAvail := rfl
theorem rbufPeek (off : Byte) : Statement (.rbufPeek off) := split_area 0x23#8 _ _ (areaB off)
theorem rbufFlush : Statement .rbufFlush := rfl
theorem mtdSetthr (t15 t35 : Half) (psc : BitVec 3) : Statement (.mtdSetthr t15 t35 psc) :=
  split_area 0x30#8 _ _ (areaT t15 t35 psc)
theorem mtdRdgap : Statement .mtdRdgap := rfl
theorem muxEnq (ch : Chan) (b : Byte) (blk : Bool) : Statement (.muxEnq ch b blk) :=
  split_area 0x40#8 _ _ (areaQ ch b (BitVec.ofBool blk))
theorem muxReg (ch : Chan) (en : Bool) : Statement (.muxReg ch en) := split_area 0x41#8 _ _ (areaH ch (BitVec.ofBool en))
theorem evBasetick : Statement .evBasetick := rfl
theorem evHookdone : Statement .evHookdone := rfl
theorem evGaptick : Statement .evGaptick := rfl
theorem evMbrx (data : Byte) (fe dor pe : Bool) : Statement (.evMbrx data fe dor pe) :=
  split_area 0x91#8 _ _ (areaR data (BitVec.ofBool fe) (BitVec.ofBool dor) (BitVec.ofBool pe))
theorem evConrx (data : Byte) : Statement (.evConrx data) := split_area 0xA0#8 _ _ (areaB data)
theorem evLink (rx : Byte) : Statement (.evLink rx) := split_area 0xB0#8 _ _ (areaB rx)
theorem evEnqretry : Statement .evEnqretry := rfl
theorem evReset : Statement .evReset := rfl

end Laws.TableRow

end Sys2Proof
end

