-- ==== Sys2Proof/Tests/Slice0.lean ====
section
/-! SUPPORT. Tests on fixed values, each with its source in spec/: the smoke test of well-formedness, the decoding of a
word of every operation, single steps (V1 to V146 are the rows of spec/96_derived_vectors.md), and for every obligation
with hypotheses a witness that they can be met together. -/

namespace Sys2Proof.Tests

open Sys2Proof.Machine

/-! ### Small states -/

/-- The start state of the spec's vectors: reset with `IE` = 1. -/
def live : State := { State.reset with ie := true }

/-- The same with N = 4 and the indices and storage of rows V43 to V59. -/
def ring (r w : BitVec 8) : State :=
  { live with
    cfg := { rbufSize := 4 }
    rbufR := r, rbufW := w
    rbufMem := { cells := [(0, 0x31#8), (1, 0x32#8), (2, 0x33#8), (3, 0x34#8)] } }

/-- The full transmit queue Q8 of the spec's vectors, with a blocking enqueue waiting or not. -/
def queueFull (w : Option EnqWait) : State :=
  { live with
    muxTxq := #v[⟨0, 0x30⟩, ⟨1, 0x31⟩, ⟨2, 0x32⟩, ⟨3, 0x33⟩, ⟨4, 0x34⟩, ⟨5, 0x35⟩, ⟨6, 0x36⟩, ⟨7, 0x37⟩]
    muxUsed := 8, muxEnqw := w }

/-- Two entries queued, the one of (3, 0xA7) the older; handlers on every channel. -/
def queueTwo : State :=
  { live with
    muxTxq := (live.muxTxq.set 7 ⟨3, 0xA7⟩).set 0 ⟨7, 0xFF⟩
    muxRpos := 7, muxUsed := 2, muxHen := Vector.replicate 8 true }

/-- The thresholds of the spec's classification rows, and a gap. -/
def gapOf (g : Half) : State := { live with mtdT15 := 150, mtdT35 := 350, mtdGap := g }

/-- What one operation leaves of a state, seen through `f`. -/
def after {α : Type} (i : Instr) (s : State) (f : State → α) : Option α :=
  match exec i s with
  | .next t => some (f t)
  | .fault _ => none
  | .refused _ => none

/-- What one operation refuses with. -/
def refusal (i : Instr) (s : State) : Option Refusal :=
  match exec i s with
  | .next _ => none
  | .fault _ => none
  | .refused r => some r

/-! ### Well-formedness -/

/-- R82, R86: the index 4 is the last legal one. -/
theorem test_wf_accepts_index_4 : Instr.wf (.cntRd 4) = true := by decide
/-- R82, R86: an index of 5 is refused, as a term and as a word. -/
theorem test_wf_refuses_index_5 :
    Instr.wf (.cntRd 5) = false ∧ decode 0x080000000005#48 = .error .counterIndex := by decide
theorem test_wf_refuses_index_7 :
    Instr.wf (.cntRd 7) = false ∧ decode 0x080000000007#48 = .error .counterIndex := by decide

/-! ### Decoding: a word of every operation, from R83 and the vectors' word column -/

/-- V30 -/
theorem test_decode_ienEnter : decode 0x010000000000#48 = .ok .ienEnter := by decide
/-- V32 -/
theorem test_decode_ienExit : decode 0x020000000001#48 = .ok (.ienExit true) := by decide
/-- V35 -/
theorem test_decode_ienOn : decode 0x030000000000#48 = .ok .ienOn := by decide
/-- V4 -/
theorem test_decode_cntRd : decode 0x080000000003#48 = .ok (.cntRd 3) := by decide
/-- V17 -/
theorem test_decode_evfSet : decode 0x100000000006#48 = .ok (.evfSet 0x06) := by decide
/-- V21 -/
theorem test_decode_evfClr : decode 0x110000000004#48 = .ok (.evfClr 0x04) := by decide
/-- V26 -/
theorem test_decode_evfTst : decode 0x120000000009#48 = .ok (.evfTst 0x09) := by decide
/-- V39 -/
theorem test_decode_rbufPush : decode 0x200000000041#48 = .ok (.rbufPush 0x41) := by decide
/-- V47 -/
theorem test_decode_rbufPop : decode 0x210000000000#48 = .ok .rbufPop := by decide
/-- V51 -/
theorem test_decode_rbufAvail : decode 0x220000000000#48 = .ok .rbufAvail := by decide
/-- V57 -/
theorem test_decode_rbufPeek : decode 0x2300000000FF#48 = .ok (.rbufPeek 255) := by decide
/-- V59 -/
theorem test_decode_rbufFlush : decode 0x240000000000#48 = .ok .rbufFlush := by decide
/-- V101 -/
theorem test_decode_mtdSetthr : decode 0x3007FFFFFFFE#48 = .ok (.mtdSetthr 65534 65535 7) := by decide
/-- V95 -/
theorem test_decode_mtdRdgap : decode 0x310000000000#48 = .ok .mtdRdgap := by decide
/-- V105 -/
theorem test_decode_muxEnq : decode 0x40000000170D#48 = .ok (.muxEnq 7 0x0D true) := by decide
/-- V134 -/
theorem test_decode_muxReg : decode 0x410000000301#48 = .ok (.muxReg 3 true) := by decide
/-- V65 -/
theorem test_decode_evBasetick : decode 0x800000000000#48 = .ok .evBasetick := by decide
/-- V77 -/
theorem test_decode_evHookdone : decode 0x810000000000#48 = .ok .evHookdone := by decide
/-- V91 -/
theorem test_decode_evGaptick : decode 0x900000000000#48 = .ok .evGaptick := by decide
/-- V80, V81, V82: the three error bits apart -/
theorem test_decode_evMbrx :
    decode 0x910000000441#48 = .ok (.evMbrx 0x41 true false false) ∧
    decode 0x910000000241#48 = .ok (.evMbrx 0x41 false true false) ∧
    decode 0x910000000141#48 = .ok (.evMbrx 0x41 false false true) := by decide
/-- V44 -/
theorem test_decode_evConrx : decode 0xA00000000046#48 = .ok (.evConrx 0x46) := by decide
/-- V126 -/
theorem test_decode_evLink : decode 0xB000000000A3#48 = .ok (.evLink 0xA3) := by decide
/-- V114 -/
theorem test_decode_evEnqretry : decode 0xB10000000000#48 = .ok .evEnqretry := by decide
/-- V145 -/
theorem test_decode_evReset : decode 0xFF0000000000#48 = .ok .evReset := by decide

/-- V138, V139, V140: unlisted command opcodes -/
theorem test_decode_illegal_opcodes :
    decode 0x000000000000#48 = .error .illegalOpcode ∧ decode 0x7F0000000000#48 = .error .illegalOpcode ∧
    decode 0x250000000000#48 = .error .illegalOpcode := by decide
/-- V37, V38, V103, V113, V137, V141, V142: one reserved bit set in each command format -/
theorem test_decode_reserved_bits :
    decode 0x020000000003#48 = .error .reservedBits ∧ decode 0x010000000001#48 = .error .reservedBits ∧
    decode 0x3008015E0096#48 = .error .reservedBits ∧ decode 0x400000000BA7#48 = .error .reservedBits ∧
    decode 0x410000000302#48 = .error .reservedBits ∧ decode 0x210000000001#48 = .error .reservedBits ∧
    decode 0x100000000104#48 = .error .reservedBits := by decide
/-- V143, V144: event words that spell no event -/
theorem test_decode_no_event :
    decode 0x820000000000#48 = .error .unknownEvent ∧ decode 0x910000000841#48 = .error .eventReservedBits := by decide
/-- The host's numbering of the table's bits: one 48-bit unit, bit 0 the least significant; more bits are no word. -/
theorem test_decodeTableWord :
    decodeTableWord 48 0x40000000170D = some (.muxEnq 7 0x0D true) ∧ decodeTableWord 48 0x250000000000 = none ∧
    decodeTableWord 56 0x01030000000000 = none := by decide
/-- The encoder, against the words of V101, V105 and V80. -/
theorem test_encode :
    encode (.mtdSetthr 65534 65535 7) = 0x3007FFFFFFFE#48 ∧ encode (.muxEnq 7 0x0D true) = 0x40000000170D#48 ∧
    encode (.evMbrx 0x41 true false false) = 0x910000000441#48 := by decide

/-! ### Single steps -/

/-- V3 -/
theorem test_cntRd_16_bits :
    after (.cntRd 2) { live with mtdRxcnt := .w16 65535 } (·.outputs) = some [.rsp .ok 0xFFFF] := by decide
/-- V6 -/
theorem test_cntRd_index_5 :
    after (.cntRd 5) { live with muxErr := .w8 9 } (fun t => (t.outputs, t.muxErr)) =
      some ([.rsp .refused 0], .w8 9) := by decide
/-- V17, V18: any named flag answers 1, none answers 0 -/
theorem test_evfSet :
    after (.evfSet 0x06) { live with evfFlags := 0x04 } (fun t => (t.outputs, t.evfFlags)) =
      some ([.rsp .ok 1], 0x06) ∧
    after (.evfSet 0x03) { live with evfFlags := 0x04 } (fun t => (t.outputs, t.evfFlags)) =
      some ([.rsp .ok 0], 0x07) := by decide
/-- V21 -/
theorem test_evfClr :
    after (.evfClr 0x04) { live with evfFlags := 0x06 } (fun t => (t.outputs, t.evfFlags)) =
      some ([.rsp .ok 1], 0x02) := by decide
/-- V26, V27 -/
theorem test_evfTst :
    after (.evfTst 0x09) { live with evfFlags := 0x06 } (fun t => (t.outputs, t.evfFlags)) =
      some ([.rsp .ok 0], 0x06) ∧
    after (.evfTst 0x0C) { live with evfFlags := 0x06 } (·.outputs) = some [.rsp .ok 1] := by decide
/-- V30 -/
theorem test_ienEnter : after .ienEnter live (fun t => (t.outputs, t.ie)) = some ([.rsp .ok 1], false) := by decide
/-- V31: a nested enter answers 0 -/
theorem test_ienEnter_nested :
    after .ienEnter State.reset (fun t => (t.outputs, t.ie)) = some ([.rsp .ok 0], false) := by decide
/-- V32, V34 -/
theorem test_ienExit :
    after (.ienExit true) State.reset (·.ie) = some true ∧ after (.ienExit false) live (·.ie) = some false := by decide
/-- V35 -/
theorem test_ienOn : after .ienOn State.reset (fun t => (t.outputs, t.ie)) = some ([.rsp .ok 0], true) := by decide
/-- V43: the write index wraps -/
theorem test_rbufPush_wraps :
    after (.rbufPush 0x45) (ring 2 3) (fun t => (t.rbufW, t.rbufMem.read 3, t.outputs)) =
      some (0, 0x45, [.rsp .ok 0]) := by decide
/-- V42: full, the sentinel lands in the free slot -/
theorem test_rbufPush_full :
    after (.rbufPush 0x44) (ring 0 3) (fun t => (t.rbufW, t.rbufMem.read 3, t.rbufErr)) = some (3, 0x00, .w8 1) := by
  decide
/-- V44 -/
theorem test_evConrx_full :
    after (.evConrx 0x46) (ring 2 1) (fun t => (t.rbufErr, t.rbufMem.read 1, t.outputs)) = some (.w8 1, 0x00, []) := by
  decide
/-- V46 -/
theorem test_evConrx_masked : refusal (.evConrx 0x47) State.reset = some .notEnabled := by decide
/-- V49 -/
theorem test_rbufPop_wraps :
    after .rbufPop (ring 3 1) (fun t => (t.outputs, t.rbufR)) = some ([.rsp .ok 0x34], 0) := by decide
/-- V48: empty with equal indices that are not 0 -/
theorem test_rbufPop_empty :
    after .rbufPop (ring 2 2) (fun t => (t.outputs, t.rbufR)) = some ([.rsp .empty 0], 2) := by decide
/-- V52, V53 -/
theorem test_rbufAvail :
    after .rbufAvail (ring 3 1) (·.outputs) = some [.rsp .ok 2] ∧
    after .rbufAvail (ring 1 0) (·.outputs) = some [.rsp .ok 3] := by decide
/-- V55 -/
theorem test_rbufPeek_wraps : after (.rbufPeek 2) (ring 3 2) (·.outputs) = some [.rsp .ok 0x32] := by decide
/-- V56 -/
theorem test_rbufPeek_range : after (.rbufPeek 3) (ring 3 2) (·.outputs) = some [.rsp .range 0] := by decide
/-- V59 -/
theorem test_rbufFlush :
    after .rbufFlush { ring 3 2 with rbufErr := .w8 5 } (fun t => (t.outputs, t.rbufErr, t.rbufR, t.rbufW)) =
      some ([.conDrain, .rsp .ok 0], .w8 0, 0, 0) := by decide
/-- V97 -/
theorem test_mtdSetthr :
    after (.mtdSetthr 150 350 2) live (fun t => (t.outputs, t.mtdT15, t.mtdT35, t.mtdPsc)) =
      some ([.pscSel 2, .rsp .ok 0], 150, 350, 2) := by decide
/-- V99 -/
theorem test_mtdSetthr_equal :
    after (.mtdSetthr 150 150 1) (gapOf 0) (fun t => (t.outputs, t.mtdT15, t.mtdT35, t.mtdPsc)) =
      some ([.rsp .badarg 0], 150, 350, 0) := by decide
/-- V95 -/
theorem test_mtdRdgap : after .mtdRdgap { live with mtdGap := 511 } (·.outputs) = some [.rsp .ok 0x1FF] := by decide
/-- V107: the last slot -/
theorem test_muxEnq_last_slot :
    after (.muxEnq 3 0x33 false) { queueFull none with muxUsed := 7 } (fun t => (t.outputs, t.muxUsed, t.txqLoad 7)) =
      some ([.rsp .ok 0], 8, ⟨3, 0x33⟩) := by decide
/-- V110: the wait opens, `IE` 0 is saved and becomes 1 -/
theorem test_muxEnq_waits :
    after (.muxEnq 3 0x33 true) { queueFull none with ie := false } (fun t => (t.outputs, t.ie, t.muxEnqw)) =
      some ([.rsp .wait 0], true, some ⟨3, 0x33, 255, false⟩) := by decide
/-- V135 -/
theorem test_muxReg :
    after (.muxReg 7 false) queueTwo (fun t => (t.outputs, t.henLoad 7, t.henLoad 6)) =
      some ([.rsp .ok 0], false, true) := by decide
/-- V69 -/
theorem test_evBasetick_fires :
    after .evBasetick { live with schDiv := 4, schTick := 95 } (fun t => (t.outputs, t.schDiv, t.schTick, t.schGuard)) =
      some ([.hookFire 5], 0, 96, true) := by decide
/-- V74: an overrun on the tick with `t` = 0 -/
theorem test_evBasetick_overruns :
    after .evBasetick { live with schDiv := 4, schTick := 255, schGuard := true }
      (fun t => (t.outputs, t.schOvr, t.schTick)) = some ([], .w8 1, 0) := by decide
/-- V78: not gated -/
theorem test_evHookdone :
    after .evHookdone { State.reset with schTick := 1, schGuard := true } (fun t => (t.schGuard, t.schTick)) =
      some (false, 1) := by decide
/-- V92, V94 -/
theorem test_evGaptick :
    after .evGaptick { State.reset with mtdGap := 41 } (·.mtdGap) = some 42 ∧
    after .evGaptick { live with mtdGap := 65535 } (·.mtdGap) = some 65535 := by decide
/-- The classification table of section 1.5 at the boundaries: 150, 151, 350, 351 -/
theorem test_evMbrx_boundaries :
    [150#16, 151#16, 350#16, 351#16].map (fun g => after (.evMbrx 0x5A false false false) (gapOf g) (·.outputs)) =
      [some [.mbDeliver 0x5A ⟨false, false, false⟩], some [.mbDeliver 0x5A ⟨false, true, false⟩],
       some [.mbDeliver 0x5A ⟨false, true, false⟩], some [.mbDeliver 0x5A ⟨false, false, true⟩]] := by decide
/-- V84 -/
theorem test_evMbrx_error :
    after (.evMbrx 0x41 false false true) (gapOf 200) (fun t => (t.outputs, t.mtdErrcnt, t.mtdRxcnt, t.mtdGap)) =
      some ([.mbDeliver 0x41 ⟨true, true, false⟩], .w8 1, .w16 0, 0) := by decide
/-- V124: the read position wraps; the high half goes out, the low half is owed -/
theorem test_evLink_sends :
    after (.evLink 0x10) { queueTwo with muxTxq := queueTwo.muxTxq.set 7 ⟨7, 0xFF⟩, muxUsed := 1 }
      (fun t => (t.outputs, t.muxRpos, t.muxUsed, t.muxTxlow)) = some ([.linkTx 0xFF], 0, 0, some 0xEF) := by decide
/-- V129 -/
theorem test_evLink_delivers :
    after (.evLink 0x67) { queueTwo with muxUsed := 0, muxRxpend := some ⟨3, 0xA⟩ }
      (fun t => (t.outputs, t.muxRxpend, t.muxErr)) =
      some ([.linkTx 0x00, .chDeliver 3 0xA7], none, .w8 0) := by decide
/-- V116: the budget is exhausted -/
theorem test_evEnqretry_full :
    after .evEnqretry (queueFull (some ⟨3, 0x33, 1, false⟩)) (fun t => (t.outputs, t.ie, t.muxErr, t.muxEnqw)) =
      some ([.enqResult .full], false, .w8 1, none) := by decide
/-- V118: a slot is free on the last turn -/
theorem test_evEnqretry_stores :
    after .evEnqretry { queueFull (some ⟨3, 0x33, 1, false⟩) with muxRpos := 1, muxUsed := 7 }
      (fun t => (t.outputs, t.ie, t.muxUsed, t.txqLoad 0)) = some ([.enqResult .ok], false, 8, ⟨3, 0x33⟩) := by decide
/-- R281: a state without the reset values becomes the reset state, its storage apart -/
theorem test_evReset :
    after .evReset (queueFull (some ⟨3, 0x33, 7, true⟩)) (fun t => { t with muxTxq := State.reset.muxTxq }) =
      some State.reset := by decide
/-- V138, V143: `step` answers an illegal command word and takes no ill-formed event word -/
theorem test_step_illegal_words :
    (match step (live.withFetchWord 48 0) with | .next t => t.outputs | _ => []) = [.rsp .refused 0] ∧
    step (live.withFetchWord 48 0x820000000000) = .refused .illFormedEvent := ⟨by decide, rfl⟩
/-- R241: with no word offered there is no step -/
theorem test_step_no_stimulus : step State.reset = .refused .noStimulus := rfl
/-- R252: the return before the tick, the command last: the hook fires in the same clock, and the tick's successor is read -/
theorem test_clock_order :
    (match clock { hookDone := true, baseTick := true, cmd := some 0x010000000000#48 }
        { live with schDiv := 4, schGuard := true } with
      | .next (t, held) => some (t.outputs, t.schOvr, held)
      | _ => none) = some ([.hookFire 0, .rsp .ok 1], .w8 0, []) := by decide
/-- R249: a gated strobe stays at its source while `IE` = 0, an ungated one does not -/
theorem test_clock_holds :
    (match clock { gapTick := true, conrx := some 0x41#8 } State.reset with
      | .next (t, held) => some (t.mtdGap, held)
      | _ => none) = some (1, [.evConrx 0x41]) := by decide
/-- R147, R247: the `ConDrain` of a flush in the same clock clears a held console byte, and no other held event -/
theorem test_clock_drains :
    (match clock { mbrx := some ⟨0x55, false, false, false⟩, conrx := some 0x41#8, cmd := some 0x240000000000#48 }
        State.reset with
      | .next (t, held) => some (t.outputs, held)
      | _ => none) = some ([.conDrain, .rsp .ok 0], [.evMbrx 0x55 false false false]) := by decide
/-- R84, R85: V6's response word -/
theorem test_response_word : rspWord 24 .refused 0 = 0xFF0000#24 ∧ rspWord 24 .ok 0x1FF = 0x0001FF#24 := by decide
/-- R89, R202: the pair of (3, 0xA7) -/
theorem test_linkpair : expand (.evLinkpair 3 0xA7) = some [.evLink 0x7A, .evLink 0x67] := by decide

/-! ### Witnesses: for each obligation with hypotheses, values that meet them together -/

/-- R45 of a concrete state, by deciding each of its clauses. -/
theorem inv_of_checks {s : State} (h : s.cfg.wf ∧ s.rbufR.toNat < s.cfg.rbufSize ∧ s.rbufW.toNat < s.cfg.rbufSize ∧
    s.schDiv.toNat ≤ 4 ∧ s.muxUsed.toNat ≤ 8 ∧ s.mtdT15 < s.mtdT35 ∧ s.evfFlags.toNat < 2 ^ s.cfg.evfW ∧
    s.mtdGap.toNat ≤ s.cfg.gapMax ∧ s.mtdT35.toNat ≤ s.cfg.gapMax ∧ s.mtdPsc.toNat < 2 ^ s.cfg.pscW ∧
    (∀ w ∈ s.muxEnqw.toList, 1 ≤ w.left ∧ w.left ≤ s.cfg.enqRetryBudget) ∧ s.rbufMem.wf ∧
    ∀ c ∈ s.rbufMem.cells, c.1 < s.cfg.rbufSize) : Inv s := by
  obtain ⟨cfgLegal, rLt, wLt, divLe, usedLe, thresholds, flagsFit, gapFits, thresholdsFit, pscFits, hw, memCanonical,
    memInside⟩ := h
  exact ⟨cfgLegal, rLt, wLt, divLe, usedLe, thresholds, flagsFit, gapFits, thresholdsFit, pscFits,
    fun w h => hw w (by simp [h]), memCanonical, memInside⟩

theorem live_inv : Inv live :=
  inv_of_checks (by decide)

theorem ring_inv : Inv (ring 3 2) ∧ Inv (ring 0 3) ∧ Inv (ring 2 2) :=
  ⟨inv_of_checks (by decide),
   inv_of_checks (by decide), inv_of_checks (by decide)⟩

/-- A queue that is full with a wait open, at each end of the budget. -/
theorem queueFull_inv : Inv (queueFull (some ⟨3, 0x33, 1, false⟩)) ∧ Inv (queueFull (some ⟨3, 0x33, 255, true⟩)) :=
  ⟨inv_of_checks (by decide),
   inv_of_checks (by decide)⟩

theorem queueTwo_inv : Inv queueTwo :=
  inv_of_checks (by decide)

theorem wit_DecodeOfEncode : Instr.wf (.cntRd 4) = true ∧ Instr.wf (.mtdSetthr 65535 65535 7) = true := by decide

theorem wit_EncodeOfDecode : decode 0x40000000170D#48 = .ok (.muxEnq 7 0x0D true) := by decide

/-- Unlisted opcodes on both sides, a reserved bit on both sides, the index 5, and a word of a listed opcode without any. -/
theorem wit_ReservedEncodings :
    (∀ r ∈ opcodeRows, opcodeOf 0x250000000000#48 ≠ r.1) ∧ (∀ r ∈ opcodeRows, opcodeOf 0x820000000000#48 ≠ r.1) ∧
    ((0x40, 0x00FFFFFFE800) ∈ opcodeRows ∧ opcodeOf 0x400000000BA7#48 = 0x40 ∧
      0x400000000BA7#48 &&& 0x00FFFFFFE800 ≠ 0) ∧
    ((0x91, 0x00FFFFFFF800) ∈ opcodeRows ∧ opcodeOf 0x910000000841#48 = 0x91 ∧
      0x910000000841#48 &&& 0x00FFFFFFF800 ≠ 0) ∧
    (opcodeOf 0x080000000005#48 = 0x08#8 ∧ 0x080000000005#48 &&& 0x00FFFFFFFFF8#48 = 0 ∧
      5 ≤ ((0x080000000005#48).extractLsb' 0 3).toNat) ∧
    ((0x08, 0x00FFFFFFFFF8) ∈ opcodeRows ∧ opcodeOf 0x080000000004#48 = 0x08 ∧
      0x080000000004#48 &&& 0x00FFFFFFFFF8 = 0 ∧ ((0x080000000004#48).extractLsb' 0 3).toNat ≤ 4) := by
  refine ⟨?_, ?_, ?_, ?_, ?_, ?_⟩ <;> simp [opcodeRows, opcodeOf]

theorem wit_StepRuns :
    ({ live with stimulus := [0x900000000000#48] } : State).stimulus = [0x900000000000#48] ∧
    decode 0x900000000000#48 = .ok .evGaptick := by decide

theorem wit_IllegalWords :
    (live.withFetchWord 48 0x250000000000).stimulus = [0x250000000000#48] ∧
    decode 0x250000000000#48 = .error .illegalOpcode ∧ isEventWord 0x250000000000#48 = false ∧
    (live.withFetchWord 48 0x820000000000).stimulus = [0x820000000000#48] ∧
    decode 0x820000000000#48 = .error .unknownEvent ∧ isEventWord 0x820000000000#48 = true := by decide

/-- A block of narrow widths: four flags, an 8-bit gap timer, two select bits. -/
def narrow : State :=
  { live with cfg := { evfW := 4, gapW := 8, pscW := 2 }, mtdT35 := 255 }

theorem narrow_inv : Inv narrow := inv_of_checks (by decide)

/-- The last mask, threshold and select that fit, and the first that do not. -/
theorem wit_Widths :
    ((15#8).toNat < 2 ^ narrow.cfg.evfW ∧ 2 ^ narrow.cfg.evfW ≤ (16#8).toNat) ∧
    ((255#16).toNat < 2 ^ narrow.cfg.gapW ∧ 2 ^ narrow.cfg.gapW ≤ (256#16).toNat) ∧
    ((3#3).toNat < 2 ^ narrow.cfg.pscW ∧ 2 ^ narrow.cfg.pscW ≤ (4#3).toNat) ∧
    ((255#8).toNat < 2 ^ live.cfg.evfW ∧ (65535#16).toNat < 2 ^ live.cfg.gapW ∧ (7#3).toNat < 2 ^ live.cfg.pscW) ∧
    (live.cfg.gapW = 16 ∧ narrow.cfg.wf ∧ narrow.mtdGap.toNat < 2 ^ narrow.cfg.gapW) := by decide

theorem wit_CountersCount :
    (∃ t, exec .evReset live = .next t) ∧ (∃ t, exec .rbufFlush live = .next t) ∧
    (∃ t, exec (.rbufPush 0) (ring 0 3) = .next t) ∧ countsNow (.rbufPush 0) (ring 0 3) .rbufErr = true ∧
    (∃ t, exec (.rbufPush 0) (ring 0 2) = .next t) ∧ countsNow (.rbufPush 0) (ring 0 2) .rbufErr = false :=
  ⟨⟨_, rfl⟩, ⟨_, rfl⟩, ⟨_, rfl⟩, by decide, ⟨_, rfl⟩, by decide⟩

/-- The counter at its maximum, the other clause at 0. -/
theorem wit_CountersNeverDecrease :
    Instr.evReset ∉ [Instr.rbufPush 0, .rbufPush 0] ∧ Instr.rbufFlush ∉ [Instr.rbufPush 0, .rbufPush 0] ∧
    (∃ t, runInstrs [.rbufPush 0, .rbufPush 0] (ring 0 3) = .next t) ∧
    (∃ t, runInstrs [.rbufPush 0, .rbufPush 0] { ring 0 3 with rbufErr := .w8 255 } = .next t) ∧
    (Counter.w8 255).value.toNat = (Counter.w8 255).max :=
  ⟨by decide, by decide, ⟨_, rfl⟩, ⟨_, rfl⟩, by decide⟩

/-- A plain step, an enqueue with room, one with a wait open, a poll that goes on waiting, and a gated step. -/
theorem wit_OtherStepsPreserveIe :
    (∃ t, exec .rbufAvail live = .next t) ∧
    ((∃ t, exec (.muxEnq 3 0 true) live = .next t) ∧ live.txqRoom = true) ∧
    ((∃ t, exec (.muxEnq 3 0 true) (queueFull (some ⟨3, 0x33, 2, false⟩)) = .next t) ∧
      (queueFull (some ⟨3, 0x33, 2, false⟩)).muxEnqw.isSome = true) ∧
    (∃ t, exec .evEnqretry (queueFull (some ⟨3, 0x33, 2, false⟩)) = .next t ∧ t.muxEnqw.isSome = true) ∧
    (∃ t, exec .evBasetick live = .next t) ∧ isGated .evBasetick = true :=
  ⟨⟨_, rfl⟩, ⟨⟨_, rfl⟩, by decide⟩, ⟨⟨_, rfl⟩, by decide⟩, ⟨_, rfl, by decide⟩, ⟨_, rfl⟩, by decide⟩

/-- A section within a section around a plain step, entered with `IE` = 1 and with `IE` = 0. -/
theorem wit_CriticalSectionsNest :
    (∃ is t, BalancedRun live is t ∧ is ≠ []) ∧
    (State.reset.ie = false ∧ ∃ is t, BalancedRun State.reset is t ∧ is ≠ []) := by
  refine ⟨⟨_, _, .crit live _ _ _ _ rfl (.crit _ _ _ _ _ rfl (.plain _ _ (.evfSet 2) ⟨?_, ?_, ?_, ?_, ?_⟩ ?_ rfl) rfl) rfl, ?_⟩,
    rfl, ⟨_, _, .crit State.reset _ _ _ _ rfl (.plain _ _ .rbufAvail ⟨?_, ?_, ?_, ?_, ?_⟩ ?_ rfl) rfl, ?_⟩⟩ <;>
  intros <;> simp_all

/-- Full, with one slot left, and at the last index. -/
theorem wit_RbufPush :
    ((ring 0 3).rbufW.toNat < (ring 0 3).cfg.rbufSize ∧
      ((ring 0 3).rbufW.toNat + 1) % (ring 0 3).cfg.rbufSize = (ring 0 3).rbufR.toNat) ∧
    ((ring 0 2).rbufW.toNat < (ring 0 2).cfg.rbufSize ∧
      ((ring 0 2).rbufW.toNat + 1) % (ring 0 2).cfg.rbufSize ≠ (ring 0 2).rbufR.toNat) ∧
    ((ring 2 3).rbufW.toNat < (ring 2 3).cfg.rbufSize ∧
      ((ring 2 3).rbufW.toNat + 1) % (ring 2 3).cfg.rbufSize ≠ (ring 2 3).rbufR.toNat) := by decide

theorem wit_EvConrx :
    ((ring 0 3).ie = true ∧ (ring 0 3).rbufW.toNat < (ring 0 3).cfg.rbufSize ∧
      ((ring 0 3).rbufW.toNat + 1) % (ring 0 3).cfg.rbufSize = (ring 0 3).rbufR.toNat) ∧
    ((ring 2 3).ie = true ∧ (ring 2 3).rbufW.toNat < (ring 2 3).cfg.rbufSize ∧
      ((ring 2 3).rbufW.toNat + 1) % (ring 2 3).cfg.rbufSize ≠ (ring 2 3).rbufR.toNat) ∧
    State.reset.ie = false := by decide

theorem wit_OnlyPushes :
    (ring 0 2).rbufMem.wf ∧ Instr.evConrx 0x41 ≠ .evReset ∧ (∃ t, exec (.evConrx 0x41) (ring 0 2) = .next t) ∧
    pushedByte (.evConrx 0x41) = some 0x41 ∧ 3 ≠ (ring 0 2).rbufW.toNat ∧
    (∃ t, exec .rbufPop (ring 0 2) = .next t) ∧ pushedByte .rbufPop = none :=
  ⟨by decide, by decide, ⟨_, rfl⟩, by decide, by decide, ⟨_, rfl⟩, by decide⟩

theorem wit_RbufPop :
    (ring 2 2).rbufR = (ring 2 2).rbufW ∧
    ((ring 3 1).rbufR ≠ (ring 3 1).rbufW ∧ (ring 3 1).rbufR.toNat < (ring 3 1).cfg.rbufSize) := by decide

/-- Also for `RBUF.PEEK`, whose hypotheses are the same. -/
theorem wit_RbufAvail_RbufPeek :
    ((ring 3 2).cfg.wf ∧ (ring 3 2).rbufR.toNat < (ring 3 2).cfg.rbufSize) ∧
    ((ring 0 0).cfg.wf ∧ (ring 0 0).rbufR.toNat < (ring 0 0).cfg.rbufSize) := by decide

/-- A pop of a held byte, a count, and a peek at the last held byte, from a full buffer whose indices wrap. -/
theorem wit_Fifo :
    Inv (ring 3 2) ∧ (∃ t, exec .rbufPop (ring 3 2) = .next t) ∧ rbufBytes (ring 3 2) = [0x34, 0x31, 0x32] ∧
    (∃ t, exec .rbufAvail (ring 3 2) = .next t) ∧ (∃ t, exec (.rbufPeek 2) (ring 3 2) = .next t) ∧
    (rbufBytes (ring 3 2))[(2#8).toNat]? = some 0x32 :=
  ⟨ring_inv.1, ⟨_, rfl⟩, by decide, ⟨_, rfl⟩, ⟨_, rfl⟩, by decide⟩

/-- Two pushes, the second dropped, and two pops. -/
theorem wit_PoppedBytes :
    Inv (ring 2 2) ∧ Instr.rbufFlush ∉ [Instr.rbufPush 0x41, .evConrx 0x42, .rbufPop, .rbufPop] ∧
    Instr.evReset ∉ [Instr.rbufPush 0x41, .evConrx 0x42, .rbufPop, .rbufPop] ∧
    ∃ t, runInstrs [.rbufPush 0x41, .evConrx 0x42, .rbufPop, .rbufPop] (ring 2 2) = .next t :=
  ⟨ring_inv.2.2, by decide, by decide, ⟨_, rfl⟩⟩

/-- Bit 7 alone and bit 0; the tick counter at its last value for the second clause. -/
theorem wit_LsbIndex :
    (128#8 ≠ 0 ∧ 255#8 ≠ 0) ∧
    (live.ie = true ∧ ¬ (4#3) < 4#3 ∧ live.schGuard = false ∧ 255#8 + 1 = 0) := by decide

/-- One state for each clause: the divider at 3 and at 4, a busy guard, `t` = 0, and `t` = 96. -/
theorem wit_BaseTick :
    State.reset.ie = false ∧ live.ie = true ∧ (3#3) < 4#3 ∧ ¬ (4#3) < 4#3 ∧ 255#8 + 1 = 0 ∧
    ((95#8 + 1).getLsbD (5 : Fin 8).val = true ∧ ∀ j : Fin 8, j.val < (5 : Fin 8).val → (95#8 + 1).getLsbD j = false) := by
  decide

/-- A round for the second clause; for the first, from the divider at 4, a tick, its return, a command, a round. -/
theorem wit_HooksFire :
    (live.ie = true ∧ live.schDiv = 0 ∧ live.schGuard = false) ∧
    (({ live with schDiv := 4 } : State).schDiv.toNat ≤ 4 ∧
      Instr.evReset ∉ [.evBasetick, .evHookdone, .rbufAvail] ++ schedRound ∧
      (∃ t, runInstrs ([.evBasetick, .evHookdone, .rbufAvail] ++ schedRound) { live with schDiv := 4 } = .next t) ∧
      overruns ([.evBasetick, .evHookdone, .rbufAvail] ++ schedRound) { live with schDiv := 4 } = 0 ∧
      schedTicks ([.evBasetick, .evHookdone, .rbufAvail] ++ schedRound) { live with schDiv := 4 } = 2) :=
  ⟨by decide, by decide, by decide, ⟨_, rfl⟩, by decide, by decide⟩

theorem wit_NoHook :
    (∃ t, exec .evBasetick { live with schDiv := 4, schGuard := true } = .next t) ∧
    (∃ t, exec .evBasetick { live with schDiv := 4 } = .next t ∧
      .hookFire 0 ∈ newOutputs { live with schDiv := 4 } t) :=
  ⟨⟨_, rfl⟩, ⟨_, rfl, by decide⟩⟩

theorem wit_Classification : 150#16 < 350#16 ∧ 65534#16 < 65535#16 ∧ 0#16 < 1#16 := by decide

theorem wit_Setthr : (65534#16).toNat < (65535#16).toNat ∧ (150#16).toNat ≤ (150#16).toNat := by decide

theorem wit_Mbrx : live.ie = true ∧ State.reset.ie = false := by decide

theorem wit_GapTimer :
    (live.cfg.wf ∧ ({ live with mtdGap := 65534 } : State).mtdGap.toNat < 2 ^ live.cfg.gapW) ∧
    (∀ data fe dor pe, Instr.evMbrx data fe dor pe ∉ [Instr.evGaptick, .ienOn, .evGaptick]) ∧
    Instr.evReset ∉ [Instr.evGaptick, .ienOn, .evGaptick] ∧
    ∃ t, runInstrs [.evGaptick, .ienOn, .evGaptick] { live with mtdGap := 65534 } = .next t :=
  ⟨by decide, by intro data fe dor pe; simp, by decide, ⟨_, rfl⟩⟩

theorem wit_Setbaud : (1 ≤ 1 ∧ 1 ≤ 1702) ∧ (1 ≤ 1702 ∧ 1702 ≤ 1702) ∧
    (65527#16).toNat < 2 ^ live.cfg.gapW ∧ (7#3).toNat < 2 ^ live.cfg.pscW := by decide

theorem wit_Txq :
    { queueFull none with muxUsed := 7 }.muxUsed.toNat < 8 ∧
    (queueTwo.muxTxlow = none ∧ txqEntries queueTwo = [⟨3, 0xA7⟩, ⟨7, 0xFF⟩]) ∧
    Instr.muxEnq 3 0x33 false ≠ .evReset ∧
    ∃ t, exec (.muxEnq 3 0x33 false) queueTwo = .next t ∧ t.muxTxq ≠ queueTwo.muxTxq :=
  ⟨by decide, by decide, by decide, _, rfl, by decide⟩

/-- The last slot; a full queue without and with a wait. -/
theorem wit_Enqueue :
    { queueFull none with muxUsed := 7 }.muxUsed.toNat < 8 ∧
    8 ≤ (queueFull none).muxUsed.toNat ∧ (queueFull none).muxEnqw = none ∧
    (8 ≤ (queueFull (some ⟨3, 0x33, 1, false⟩)).muxUsed.toNat ∧
      (queueFull (some ⟨3, 0x33, 1, false⟩)).muxEnqw ≠ none) := by decide

/-- No wait; a wait with room, with one poll left and with two. -/
theorem wit_EnqRetry :
    live.muxEnqw = none ∧
    ({ live with muxEnqw := some ⟨3, 0x33, 1, false⟩ }.muxEnqw = some ⟨3, 0x33, 1, false⟩ ∧ live.muxUsed.toNat < 8) ∧
    8 ≤ (queueFull none).muxUsed.toNat ∧ (EnqWait.mk 3 0x33 1 false).left = 1 ∧
    (EnqWait.mk 3 0x33 2 false).left ≠ 1 := by decide

theorem wit_BlockingEnqueue :
    Inv (queueFull (some ⟨3, 0x33, 1, false⟩)) ∧
    (queueFull (some ⟨3, 0x33, 1, false⟩)).muxEnqw = some ⟨3, 0x33, 1, false⟩ ∧
    (queueFull (some ⟨3, 0x33, 1, false⟩)).muxUsed.toNat = 8 :=
  ⟨queueFull_inv.1, rfl, by decide⟩

/-- A gap tick before the last poll of a wait. -/
theorem wit_BlockingEnqueue_other_steps :
    Instr.evReset ∉ [Instr.evGaptick] ∧ [Instr.evGaptick].count .evEnqretry < 1 ∧
    [Instr.evGaptick].count .evEnqretry + 1 = 1 ∧
    (∃ u, runInstrs [.evGaptick] (queueFull (some ⟨3, 0x33, 1, false⟩)) = .next u) ∧
    (∀ (is₁ is₂ : List Instr) (v : State), [Instr.evGaptick] = is₁ ++ is₂ →
      runInstrs is₁ (queueFull (some ⟨3, 0x33, 1, false⟩)) = .next v → v.muxUsed.toNat = 8) := by
  refine ⟨by decide, by decide, by decide, ⟨_, rfl⟩, ?_⟩
  intro is₁ is₂ v h hr
  rcases is₁ with _ | ⟨i, _ | ⟨j, r⟩⟩
  · cases hr; rfl
  · cases h; cases hr; rfl
  · simp at h

theorem wit_Link : live.ie = true ∧ State.reset.ie = false := by decide

theorem wit_QueueDrains :
    Inv queueTwo ∧ queueTwo.ie = true ∧ queueTwo.muxTxlow = none ∧
    [0x10#8, 0x00#8, 0xA3#8, 0xFF#8].length = 2 * queueTwo.muxUsed.toNat :=
  ⟨queueTwo_inv, by decide, by decide, by decide⟩

/-- A step that delivers, and one that is a protocol error. -/
theorem wit_Deliveries :
    (∃ t, exec (.evLink 0x67) { queueTwo with muxRxpend := some ⟨3, 0xA⟩ } = .next t ∧
      ⟨3, 0xA7⟩ ∈ deliveredBytes (newOutputs { queueTwo with muxRxpend := some ⟨3, 0xA⟩ } t)) ∧
    (∃ t, exec (.evLink 0xA3) live = .next t) ∧ linkProtocolError live 0xA3 = true ∧
    xferHigh 0xA3 = false ∧ xferHigh 0x51 = true ∧ ∃ t, exec (.evLink 0x51) live = .next t :=
  ⟨⟨_, rfl, by decide⟩, ⟨_, rfl⟩, by decide, by decide, by decide, ⟨_, rfl⟩⟩

/-- The sender and the receiver are the same state, with handlers on every channel. -/
theorem wit_TransportRoundTrip :
    Inv queueTwo ∧ queueTwo.ie = true ∧ queueTwo.muxTxlow = none ∧
    [0x10#8, 0x00#8, 0xA3#8, 0xFF#8].length = 2 * queueTwo.muxUsed.toNat ∧
    (∃ t, runInstrs ([0x10#8, 0x00#8, 0xA3#8, 0xFF#8].map .evLink) queueTwo = .next t) ∧
    queueTwo.muxRxpend = none ∧ ∀ e ∈ txqEntries queueTwo, queueTwo.henLoad e.ch = true :=
  ⟨queueTwo_inv, by decide, by decide, by decide, ⟨_, rfl⟩, by decide, by decide⟩

theorem wit_EveryStep :
    Inv { live with stimulus := [0x900000000000#48] } ∧
    ∃ t, step { live with stimulus := [0x900000000000#48] } = .next t :=
  ⟨inv_of_checks (by decide),
   ⟨_, rfl⟩⟩

theorem wit_EveryWord :
    Inv { live with stimulus := [0x820000000000#48] } ∧
    { live with stimulus := [0x820000000000#48] }.stimulus = [0x820000000000#48] :=
  ⟨inv_of_checks (by decide),
   rfl⟩

theorem wit_StepsAreTaken :
    Inv live ∧ enabled .evBasetick live = true ∧ enabled .evEnqretry live = false :=
  ⟨live_inv, by decide, by decide⟩

theorem wit_CommandsAnswer : (∃ t, exec .rbufAvail live = .next t) ∧ ∃ t, exec (.evLink 0) live = .next t :=
  ⟨⟨_, rfl⟩, ⟨_, rfl⟩⟩

theorem wit_RegistersChange : (∃ t, exec .ienEnter live = .next t ∧ t.ie ≠ live.ie) ∧ Instr.ienEnter ≠ .evReset :=
  ⟨⟨_, rfl, by decide⟩, by decide⟩

theorem wit_Idempotent :
    (∃ t, exec (.rbufPeek 0) (ring 3 2) = .next t) ∧ ∃ t, exec (.mtdSetthr 150 350 2) live = .next t :=
  ⟨⟨_, rfl⟩, ⟨_, rfl⟩⟩

/-- Two states with one byte held, 0x34 in cell 3, that differ in a cell and in an entry not held. -/
theorem wit_UnspecifiedStorage :
    Inv (ring 3 0) ∧
    Inv { ring 3 0 with
      rbufMem := { cells := [(1, 0x77#8), (3, 0x34#8)] }, muxTxq := live.muxTxq.set 5 ⟨2, 0x99⟩ } ∧
    SameVisible (ring 3 0) { ring 3 0 with
      rbufMem := { cells := [(1, 0x77#8), (3, 0x34#8)] }, muxTxq := live.muxTxq.set 5 ⟨2, 0x99⟩ } ∧
    ∃ t, exec .rbufPop (ring 3 0) = .next t :=
  ⟨inv_of_checks (by decide),
   inv_of_checks (by decide),
   ⟨rfl, by decide, by decide⟩, ⟨_, rfl⟩⟩

/-- A clock with a gated strobe held and a command; a clock with reset. -/
theorem wit_Clock :
    (∃ p, clock { gapTick := true, conrx := some 0x41#8, cmd := some 0x030000000000#48 } State.reset = .next p) ∧
    ({ gapTick := true, conrx := some 0x41#8, cmd := some 0x030000000000#48 } : Strobes).rst = false ∧
    ({ rst := true, baseTick := true } : Strobes).rst = true ∧ Inv live :=
  ⟨⟨_, rfl⟩, rfl, rfl, live_inv⟩

end Sys2Proof.Tests
end

/-! PROOFS. The functions of spec/00_scope.md that every unit shares: the saturating increment (R12) and `lsb_index`
(R13). -/

namespace Sys2Proof.Machine

/-! ### The saturating increment -/

/-- The two branches of `sat_inc_W`, in terms of a counter's value and its `MAX` (R12). -/
theorem Counter.inc_cases (c : Counter) :
    (c.value.toNat = c.max ∧ c.inc = c) ∨
    (c.value.toNat < c.max ∧ c.inc.value.toNat = c.value.toNat + 1) := by
  cases c with
  | w8 v =>
    by_cases hv : v = 255#8
    · subst hv
      exact .inl ⟨rfl, rfl⟩
    · refine .inr ?_
      simp only [Counter.inc, Counter.value, Counter.max, if_neg hv, BitVec.toNat_setWidth]
      bv_omega
  | w16 v =>
    by_cases hv : v = 65535#16
    · subst hv
      exact .inl ⟨rfl, rfl⟩
    · refine .inr ?_
      simp only [Counter.inc, Counter.value, Counter.max, if_neg hv]
      bv_omega

/-- A counter counts up to its `MAX` and stays there (R12). -/
theorem Counter.inc_value (c : Counter) : c.inc.value.toNat = min (c.value.toNat + 1) c.max := by
  obtain ⟨hmax, hinc⟩ | ⟨hlt, hinc⟩ := c.inc_cases
  · rw [hinc]; omega
  · omega

/-- `sat_inc_8` as the spec writes it, by the value of the register (R12). -/
theorem Counter.inc_w8 (v : BitVec 8) :
    Counter.inc (.w8 v) = .w8 (if v.toNat = 2 ^ 8 - 1 then v else v + 1) := by
  have hmax : v = 255#8 ↔ v.toNat = 2 ^ 8 - 1 := BitVec.toNat_inj.symm
  simp only [Counter.inc, hmax]

/-- `sat_inc_16` as the spec writes it, by the value of the register (R12). -/
theorem Counter.inc_w16 (v : BitVec 16) :
    Counter.inc (.w16 v) = .w16 (if v.toNat = 2 ^ 16 - 1 then v else v + 1) := by
  have hmax : v = 65535#16 ↔ v.toNat = 2 ^ 16 - 1 := BitVec.toNat_inj.symm
  simp only [Counter.inc, hmax]

/-- Settles O7: the case form for each width, and the form with `min` from the two branches of the increment. -/
theorem saturatingIncrementIsMin : Obligations.SaturatingIncrementIsMin :=
  ⟨Counter.inc_w8, Counter.inc_w16, Counter.inc_value⟩

/-! ### The least set bit -/

/-- The tests from bit 0 upward are a search for the first set bit (R13). -/
theorem lsbIndex_eq_find (t : BitVec 8) : lsbIndex t = Fin.find? fun k : Fin 8 => t.getLsbD k.val := by
  simp only [lsbIndex, Fin.find?_succ, Fin.find?_zero, apply_ite (Option.map Fin.succ)]
  rfl

/-- `lsb_index(t)` is `k` exactly when bit `k` is the least set one (R13). -/
theorem lsbIndex_eq_some_iff (t : BitVec 8) (k : Fin 8) :
    lsbIndex t = some k ↔ t.getLsbD k.val = true ∧ ∀ j : Nat, j < k.val → t.getLsbD j = false := by
  rw [lsbIndex_eq_find, Fin.find?_eq_some_iff]
  refine and_congr_right fun _ => ⟨fun h j hj => ?_, fun h j hj => h j.val hj⟩
  exact h ⟨j, hj.trans k.isLt⟩ hj

/-- Only at 0 is no bit set (R13, R166). -/
theorem lsbIndex_eq_none_iff (t : BitVec 8) : lsbIndex t = none ↔ t = 0 := by
  rw [lsbIndex_eq_find, Fin.find?_eq_none_iff]
  constructor
  · intro h
    refine BitVec.eq_of_getLsbD_eq fun j hj => ?_
    simpa using h ⟨j, hj⟩
  · rintro rfl k
    exact BitVec.getLsbD_zero

/-- With `IE` = 1 `EV.BASETICK` is taken and is the base tick (R162, R254). -/
theorem exec_evBasetick_enabled (s : State) (h : s.ie = true) : exec .evBasetick s = .next (baseTick s) :=
  acceptGated_enabled (fun t => .next (baseTick t)) s h

/-- A scheduler tick that brings the counter to 0 returns the divider and fires nothing (R162, R166). -/
theorem baseTick_of_tick_zero (s : State) (hdiv : ¬ s.schDiv < 4#3) (hguard : s.schGuard = false)
    (htick : s.schTick + 1 = 0) : baseTick s = { s with schDiv := 0, schTick := 0 } := by
  have hnone : lsbIndex (s.schTick + 1) = none := (lsbIndex_eq_none_iff _).2 htick
  obtain ⟨hd, -⟩ | ⟨-, hg, -⟩ | ⟨-, -, -, hb⟩ | ⟨-, -, k, hk, -⟩ := baseTick_cases s
  · exact absurd hd hdiv
  · exact absurd (hguard.symm.trans hg) Bool.false_ne_true
  · rw [hb, htick]
  · exact absurd (hnone.symm.trans hk) (Option.some_ne_none k).symm

/-- Settles O26: `lsb_index` is the first set bit of a search over 0..7, which finds one unless `t` = 0; at 0 the tick
takes the branch without a hook. -/
theorem lsbIndexIsTheLeastSetBit : Obligations.LsbIndexIsTheLeastSetBit := by
  refine ⟨fun t ht => ?_, fun s hie hdiv hguard htick => ?_⟩
  · obtain ⟨k, hk⟩ := Option.ne_none_iff_exists'.1 (mt (lsbIndex_eq_none_iff t).1 ht)
    exact ⟨k, hk, (lsbIndex_eq_some_iff t k).1 hk⟩
  · rw [exec_evBasetick_enabled s hie, baseTick_of_tick_zero s hdiv hguard htick]

end Sys2Proof.Machine

/-! PROOFS. The event flags (spec/41_event_flags_critical_section.md section 1): `EVF.SET`, `EVF.CLR`, `EVF.TST`
(R120 to R123). -/

namespace Sys2Proof.Machine

/-- A command whose operand fits its width is its rule's step (R86). -/
theorem legalCommand_fits {n w : Nat} {v : BitVec n} (h : v.toNat < 2 ^ w) (rule : State → State) (s : State) :
    legalCommand (fitsWidth w v) rule s = .next (rule s) := by
  rw [legalCommand, if_pos ((fitsWidth_iff v).2 h)]

/-- The membership of a mask as a response value: 1 when a named flag is pending, else 0 (R84, R120). -/
theorem boolVal_evfMember (flags m : BitVec 8) :
    boolVal (evfMember flags m) = if flags &&& m ≠ 0 then 1 else 0 := by
  simp only [boolVal, evfMember, bne_iff_ne]
  rfl

/-- `EVF.SET` of a mask within `EVF_W` answers the membership before the flags are set (R121). -/
theorem exec_evfSet_fits {m : Byte} {s : State} (h : m.toNat < 2 ^ s.cfg.evfW) :
    exec (.evfSet m) s = .next
      ({ s with evfFlags := evfSetBits s.evfFlags m }.respond .ok (boolVal (evfMember s.evfFlags m))) := by
  simp only [exec, execEvfSet, legalCommand_fits h]

/-- `EVF.CLR` of a mask within `EVF_W` answers the membership before the flags are cleared (R122). -/
theorem exec_evfClr_fits {m : Byte} {s : State} (h : m.toNat < 2 ^ s.cfg.evfW) :
    exec (.evfClr m) s = .next
      ({ s with evfFlags := evfClearBits s.evfFlags m }.respond .ok (boolVal (evfMember s.evfFlags m))) := by
  simp only [exec, execEvfClr, legalCommand_fits h]

/-- `EVF.TST` of a mask within `EVF_W` is its response and nothing else (R123). -/
theorem exec_evfTst_fits {m : Byte} {s : State} (h : m.toNat < 2 ^ s.cfg.evfW) :
    exec (.evfTst m) s = .next (s.respond .ok (boolVal (evfMember s.evfFlags m))) := by
  simp only [exec, execEvfTst, legalCommand_fits h]

/-- Settles O11: the mask fits, so `EVF.SET` is its rule's step, which reads the membership from the flags before it
sets them. -/
theorem evfSetReportsThenSets : Obligations.EvfSetReportsThenSets := by
  refine fun m s => ⟨rfl, fun hfits => ?_⟩
  rw [exec_evfSet_fits hfits, boolVal_evfMember]
  rfl

/-- Settles O12: the mask fits, so `EVF.CLR` is its rule's step, which reads the membership from the flags before it
clears them. -/
theorem evfClrReportsThenClears : Obligations.EvfClrReportsThenClears := by
  refine fun m s => ⟨rfl, fun hfits => ?_⟩
  rw [exec_evfClr_fits hfits, boolVal_evfMember]
  rfl

/-- Settles O13: the mask fits, so `EVF.TST` is its rule's step, which only adds the response. -/
theorem evfTstOnlyReports : Obligations.EvfTstOnlyReports := by
  refine fun m s => ⟨rfl, fun hfits => ?_⟩
  rw [exec_evfTst_fits hfits, boolVal_evfMember]
  rfl

end Sys2Proof.Machine

/-! PROOFS. The receive buffer's commands that read it (spec/42_ring_buffer.md): `RBUF.POP`, `RBUF.AVAIL`, `RBUF.PEEK`
(R143 to R145). -/

namespace Sys2Proof.Machine

/-! ### What each command answers -/

/-- An index below N is inside the space (R35, R61). -/
theorem State.rbufLoad_of_lt {s : State} {i : Nat} (h : i < s.cfg.rbufSize) :
    s.rbufLoad i = some (s.rbufMem.read i) :=
  if_pos h

/-- `RBUF.POP` on an empty buffer is its response and nothing else (R143). -/
theorem exec_rbufPop_empty {s : State} (h : s.rbufR = s.rbufW) :
    exec .rbufPop s = .next (s.respond .empty 0) := by
  simp only [exec, execRbufPop, if_pos h]

/-- `RBUF.POP` on a buffer that holds a byte reads at the read index before it advances it (R143). -/
theorem exec_rbufPop_held {s : State} (h : s.rbufR ≠ s.rbufW) (hr : s.rbufR.toNat < s.cfg.rbufSize) :
    exec .rbufPop s = .next
      ({ s with rbufR := BitVec.ofNat 8 (s.rbufNext s.rbufR) }.respond .ok
        (zext16 (s.rbufMem.read s.rbufR.toNat))) := by
  simp only [exec, execRbufPop, if_neg h, State.rbufLoad_of_lt hr]

/-- `RBUF.PEEK` at or beyond the number held is its response and nothing else (R145). -/
theorem exec_rbufPeek_range {off : Byte} {s : State} (h : s.rbufHeld ≤ off.toNat) :
    exec (.rbufPeek off) s = .next (s.respond .range 0) := by
  simp only [exec, execRbufPeek, if_pos h]

/-- `RBUF.PEEK` below the number held reads `off` slots after the read index, which the remainder keeps inside the space
(R145). -/
theorem exec_rbufPeek_held {off : Byte} {s : State} (hcfg : s.cfg.wf) (h : ¬ s.rbufHeld ≤ off.toNat) :
    exec (.rbufPeek off) s = .next
      (s.respond .ok (zext16 (s.rbufMem.read ((s.rbufR.toNat + off.toNat) % s.cfg.rbufSize)))) := by
  obtain ⟨htwo, -⟩ := hcfg
  have hslot : (s.rbufR.toNat + off.toNat) % s.cfg.rbufSize < s.cfg.rbufSize := Nat.mod_lt _ (by omega)
  simp only [exec, execRbufPeek, if_neg h, State.rbufLoad_of_lt hslot]

/-! ### The obligations -/

/-- Settles O20: the two cases of `RBUF.POP`; the premise on the read index puts it inside the space. -/
theorem rbufPopTakesTheOldest : Obligations.RbufPopTakesTheOldest :=
  ⟨rfl, fun _ => ⟨exec_rbufPop_empty, exec_rbufPop_held⟩⟩

/-- Settles O21: the number held that `RBUF.AVAIL` answers is the integer remainder, since the read index is below N. -/
theorem rbufAvailCountsTheHeld : Obligations.RbufAvailCountsTheHeld := by
  refine ⟨rfl, fun s _ hr => ?_⟩
  rw [s.rbufHeld_int hr, BitVec.ofInt_natCast]
  rfl

/-- Settles O22: the bound of `RBUF.PEEK` is the number held as an integer remainder; the offset is below it or not. -/
theorem rbufPeekReadsTheHeld : Obligations.RbufPeekReadsTheHeld := by
  refine fun off s hcfg hr => ⟨rfl, ?_⟩
  simp only [s.rbufHeld_int hr, Int.ofNat_le]
  by_cases hoff : s.rbufHeld ≤ off.toNat
  · rw [exec_rbufPeek_range hoff, if_pos hoff]
    rfl
  · rw [exec_rbufPeek_held hcfg hoff, if_neg hoff]
    rfl

end Sys2Proof.Machine

/-! PROOFS. The scheduler (spec/43_scheduler.md): the base tick, `EV.BASETICK` (R162). -/

namespace Sys2Proof.Machine

/-! ### The branches of a base tick -/

/-- A base tick that finds the divider below 4 only counts it (R162). -/
theorem baseTick_of_div_lt {s : State} (hdiv : s.schDiv < 4#3) :
    baseTick s = { s with schDiv := s.schDiv + 1 } :=
  if_pos hdiv

/-- A base tick that finds the divider at its end is a scheduler tick from divider 0 (R161, R162). -/
theorem baseTick_of_not_div_lt {s : State} (hdiv : ¬ s.schDiv < 4#3) :
    baseTick s = schedTick { s with schDiv := 0 } :=
  if_neg hdiv

/-- A scheduler tick with the guard set advances the tick counter and counts an overrun (R162). -/
theorem schedTick_of_guard {s : State} (hguard : s.schGuard = true) :
    schedTick s = { s with schTick := s.schTick + 1, schOvr := s.schOvr.inc } :=
  if_pos hguard

/-- A scheduler tick with the guard clear sets it and fires the hook that the advanced counter selects (R162). -/
theorem schedTick_of_hook {s : State} {k : Fin 8} (hguard : s.schGuard = false)
    (hhook : lsbIndex (s.schTick + 1) = some k) :
    schedTick s = { s with
      schTick := s.schTick + 1, schGuard := true, outputs := s.outputs ++ [.hookFire k] } := by
  simp only [schedTick, hguard, hhook, Bool.false_eq_true, if_false, State.emit]

/-! ### The event -/

/-- With `IE` = 0 `EV.BASETICK` is not enabled (R162, R242). -/
theorem exec_evBasetick_masked (s : State) (h : s.ie = false) : exec .evBasetick s = .refused .notEnabled :=
  acceptGated_masked (fun t => .next (baseTick t)) s h

/-- Settles O27: `IE` = 0 refuses the event; with `IE` = 1 it is the base tick, taken in each of its branches, the hook
being the one whose bit is the least set in the advanced counter. -/
theorem baseTickDividesAndDispatches : Obligations.BaseTickDividesAndDispatches := by
  refine ⟨rfl, exec_evBasetick_masked, fun s hie => ?_⟩
  rw [exec_evBasetick_enabled s hie]
  refine ⟨fun hdiv => ?_, fun hdiv => ⟨fun hguard => ?_, fun hguard htick => ?_, fun k hguard hbit hleast => ?_⟩⟩
  · rw [baseTick_of_div_lt hdiv]
  · rw [baseTick_of_not_div_lt hdiv, schedTick_of_guard (s := { s with schDiv := 0 }) hguard]
  · rw [baseTick_of_tick_zero s hdiv hguard htick, htick]
  · have hhook : lsbIndex (s.schTick + 1) = some k := (lsbIndex_eq_some_iff _ k).2 ⟨hbit, hleast⟩
    rw [baseTick_of_not_div_lt hdiv, schedTick_of_hook (s := { s with schDiv := 0 }) hguard hhook]

end Sys2Proof.Machine

/-! PROOFS. The Modbus timing detector (spec/44_modbus_timing_detector.md): the classification of a gap (R182). -/

namespace Sys2Proof.Machine

section Classification

variable {g t15 t35 : Half}

/-! ### The branches of the classification -/

/-- A gap above the upper threshold begins a new frame (R182). -/
theorem classify_of_t35_lt (h35 : t35 < g) : classify g t15 t35 = .newFrame :=
  if_pos h35

/-- A gap above the lower threshold only is a frame error (R182). -/
theorem classify_of_t15_lt (h35 : ¬ t35 < g) (h15 : t15 < g) : classify g t15 t35 = .errorFrame :=
  (if_neg h35).trans (if_pos h15)

/-- A gap above neither threshold continues the frame (R182). -/
theorem classify_of_not_lt (h35 : ¬ t35 < g) (h15 : ¬ t15 < g) : classify g t15 t35 = .continuation :=
  (if_neg h35).trans (if_neg h15)

/-! ### The class determines where the gap lies -/

/-- The upper threshold is compared first, so this holds for thresholds in any order. -/
theorem classify_eq_newFrame_iff : classify g t15 t35 = .newFrame ↔ t35 < g := by
  refine ⟨fun hclass => ?_, classify_of_t35_lt⟩
  by_contra h35
  by_cases h15 : t15 < g
  · simp [classify_of_t15_lt h35 h15] at hclass
  · simp [classify_of_not_lt h35 h15] at hclass

/-- An error frame lies above the lower threshold and not above the upper one, for thresholds in any order. -/
theorem classify_eq_errorFrame_iff : classify g t15 t35 = .errorFrame ↔ t15 < g ∧ ¬ t35 < g := by
  refine ⟨fun hclass => ?_, fun ⟨h15, h35⟩ => classify_of_t15_lt h35 h15⟩
  have h35 : ¬ t35 < g := fun h35 => by simp [classify_of_t35_lt h35] at hclass
  refine ⟨?_, h35⟩
  by_contra h15
  simp [classify_of_not_lt h35 h15] at hclass

/-- A continuation lies above neither threshold; that it is not above the lower one suffices when the lower threshold is
the smaller, which is what the premise of R182 is needed for. -/
theorem classify_eq_continuation_iff (hlt : t15 < t35) : classify g t15 t35 = .continuation ↔ ¬ t15 < g := by
  refine ⟨fun hclass h15 => ?_, fun h15 => classify_of_not_lt (fun h35 => h15 (BitVec.lt_trans hlt h35)) h15⟩
  by_cases h35 : t35 < g
  · simp [classify_of_t35_lt h35] at hclass
  · simp [classify_of_t15_lt h35 h15] at hclass

end Classification

/-- Settles O32: each class is one branch of the classification, and the branches are told apart by the two strict
comparisons, read here as comparisons of numbers. -/
theorem classificationIsStrict : Obligations.ClassificationIsStrict := by
  intro g t15 t35 hlt
  refine ⟨classify_eq_newFrame_iff.trans BitVec.lt_def, ?_, ?_⟩
  · rw [classify_eq_errorFrame_iff, BitVec.lt_def, BitVec.lt_def, Nat.not_lt]
  · rw [classify_eq_continuation_iff hlt, BitVec.lt_def, Nat.not_lt]

end Sys2Proof.Machine

/-! PROOFS. The transport's transmit queue (spec/45_mux_transport.md): `txq_store`, the transmit half of a link event, and
the instructions that store (R203, R207). -/

namespace Sys2Proof.Machine

/-! ### Storing an entry -/

/-- The queue has room exactly below 8 entries (R204). -/
theorem State.txqRoom_iff (s : State) : s.txqRoom = true ↔ s.muxUsed.toNat < 8 := by
  simp [State.txqRoom, BitVec.lt_def]

/-- The write position as a number (R29). -/
theorem State.txqWpos_toNat (s : State) : s.txqWpos.toNat = (s.muxRpos.toNat + s.muxUsed.toNat) % 8 :=
  BitVec.toNat_ofNat _ 3

/-- With room the count is stored without a carry lost (R203). -/
theorem State.muxUsed_add_one_toNat {s : State} (hroom : s.muxUsed.toNat < 8) :
    (s.muxUsed + 1).toNat = s.muxUsed.toNat + 1 := by
  bv_omega

/-- A load after a store: the new entry at the write position, every other slot as before (R61, R203). -/
theorem txqLoad_txqStore (ch : Chan) (b : Byte) (s : State) (i : BitVec 3) :
    (txqStore ch b s).txqLoad i = if i = s.txqWpos then { ch := ch, b := b } else s.txqLoad i := by
  simp only [State.txqLoad, txqStore_muxTxq, Vector.getElem_set, BitVec.toNat_inj, eq_comm]

/-- A store with room leaves the slot of every entry held: it lies fewer than 8 slots before the write position. -/
theorem txqLoad_txqStore_held (ch : Chan) (b : Byte) {s : State} {k : Nat} (hroom : s.muxUsed.toNat < 8)
    (hk : k < s.muxUsed.toNat) :
    (txqStore ch b s).txqLoad (BitVec.ofNat 3 (s.muxRpos.toNat + k)) =
      s.txqLoad (BitVec.ofNat 3 (s.muxRpos.toNat + k)) := by
  have hslot : BitVec.ofNat 3 (s.muxRpos.toNat + k) ≠ s.txqWpos := by
    rw [ne_eq, ← BitVec.toNat_inj, s.txqWpos_toNat, BitVec.toNat_ofNat]
    omega
  rw [txqLoad_txqStore, if_neg hslot]

/-- `txq_store` with its position and count as numbers (R203). -/
theorem txqStore_eq (ch : Chan) (b : Byte) {s : State} (hroom : s.muxUsed.toNat < 8) :
    txqStore ch b s = { s with
      muxTxq := s.muxTxq.set ((s.muxRpos.toNat + s.muxUsed.toNat) % 8) { ch := ch, b := b } (Nat.mod_lt _ (by decide))
      muxUsed := BitVec.ofNat 4 (s.muxUsed.toNat + 1) } := by
  have hused : s.muxUsed + 1 = BitVec.ofNat 4 (s.muxUsed.toNat + 1) := by
    rw [← State.muxUsed_add_one_toNat hroom, BitVec.ofNat_toNat, BitVec.setWidth_eq]
  simp only [txqStore, s.txqWpos_toNat, hused]

/-- `txq_store` with room appends its entry (R203, D22). -/
theorem txqEntries_txqStore (ch : Chan) (b : Byte) {s : State} (hroom : s.muxUsed.toNat < 8) :
    txqEntries (txqStore ch b s) = txqEntries s ++ [{ ch := ch, b := b }] := by
  have hnew : (txqStore ch b s).txqLoad (BitVec.ofNat 3 (s.muxRpos.toNat + s.muxUsed.toNat)) = { ch := ch, b := b } :=
    (txqLoad_txqStore ch b s s.txqWpos).trans (if_pos rfl)
  have hheld : ∀ k ∈ List.range s.muxUsed.toNat,
      (txqStore ch b s).txqLoad (BitVec.ofNat 3 (s.muxRpos.toNat + k)) =
        s.txqLoad (BitVec.ofNat 3 (s.muxRpos.toNat + k)) :=
    fun k hk => txqLoad_txqStore_held ch b hroom (List.mem_range.1 hk)
  simp only [txqEntries, txqStore_muxUsed, txqStore_muxRpos, State.muxUsed_add_one_toNat hroom, List.range_succ,
    List.map_append, List.map_congr_left hheld, List.map_singleton, hnew]

/-! ### Taking the oldest entry -/

/-- A queue that counts an entry holds the one at the read position, then those of the queue advanced by one (R29). -/
theorem txqEntries_eq_cons {s t : State} (hused : 0#4 < s.muxUsed) (htxq : t.muxTxq = s.muxTxq)
    (hrpos : t.muxRpos = s.muxRpos + 1) (hcount : t.muxUsed = s.muxUsed - 1) :
    txqEntries s = s.txqLoad s.muxRpos :: txqEntries t := by
  have hn : s.muxUsed.toNat = t.muxUsed.toNat + 1 := by rw [hcount]; bv_omega
  have hslot (k : Nat) : BitVec.ofNat 3 (s.muxRpos.toNat + (k + 1)) = BitVec.ofNat 3 (t.muxRpos.toNat + k) := by
    rw [hrpos]; bv_omega
  have hfirst : BitVec.ofNat 3 (s.muxRpos.toNat + 0) = s.muxRpos := by simp
  simp only [txqEntries, hn, List.range_succ_eq_map, List.map_cons, List.map_map, Function.comp_def, Nat.succ_eq_add_one,
    hslot, hfirst, State.txqLoad, htxq]

/-- A queue that holds an entry counts one. -/
theorem muxUsed_pos_of_txqEntries_cons {s : State} {e : TxEntry} {q : List TxEntry} (hq : txqEntries s = e :: q) :
    0#4 < s.muxUsed := by
  have hlen : s.muxUsed.toNat = q.length + 1 := by
    simpa [txqEntries] using congrArg List.length hq
  rw [BitVec.lt_def, hlen]
  exact Nat.succ_pos _

/-- With no low transfer owed the link takes the oldest entry: its high transfer goes out, its low one is owed (R207). -/
theorem linkTx_takes_oldest {s : State} {e : TxEntry} {q : List TxEntry} (hlow : s.muxTxlow = none)
    (hq : txqEntries s = e :: q) :
    txqEntries (linkTx s) = q ∧ (linkTx s).outputs = s.outputs ++ [.linkTx (hiXfer e.ch e.b)] ∧
      (linkTx s).muxTxlow = some (loXfer e.ch e.b) := by
  have hpos := muxUsed_pos_of_txqEntries_cons hq
  obtain ⟨l, howed, -⟩ | ⟨-, -, hlink⟩ | ⟨-, hempty, -⟩ := linkTx_cases s
  · exact absurd (hlow.symm.trans howed) (Option.some_ne_none l).symm
  · have hcons : txqEntries s = s.txqLoad s.muxRpos :: txqEntries (linkTx s) :=
      txqEntries_eq_cons hpos (by rw [hlink]) (by rw [hlink]) (by rw [hlink])
    obtain ⟨rfl, rfl⟩ := List.cons.inj (hq.symm.trans hcons)
    exact ⟨rfl, by rw [hlink], by rw [hlink]⟩
  · exact absurd hpos hempty

/-! ### What leaves the queue's storage -/

theorem rbufPush_muxTxq {b : Byte} {s t : State} (h : rbufPush b s = .next t) : t.muxTxq = s.muxTxq := by
  obtain ⟨-, ⟨-, rfl⟩ | ⟨-, rfl⟩⟩ := rbufPush_cases h <;> rfl

theorem baseTick_muxTxq (s : State) : (baseTick s).muxTxq = s.muxTxq := by
  obtain ⟨-, h⟩ | ⟨-, -, h⟩ | ⟨-, -, -, h⟩ | ⟨-, -, k, -, h⟩ := baseTick_cases s <;> rw [h]

theorem mbReceive_muxTxq (data : Byte) (ue : Bool) (s : State) : (mbReceive data ue s).muxTxq = s.muxTxq := by
  simp only [mbReceive, State.emit_muxTxq, State.count_muxTxq]

/-- Taking an entry moves the read position; the entry stays in its slot (R207). -/
theorem linkTx_muxTxq (s : State) : (linkTx s).muxTxq = s.muxTxq := by
  obtain ⟨l, -, h⟩ | ⟨-, -, h⟩ | ⟨-, -, h⟩ := linkTx_cases s <;> rw [h]

theorem linkRx_muxTxq (x : Byte) (s : State) : (linkRx x s).muxTxq = s.muxTxq := by
  obtain ⟨-, -, h⟩ | ⟨-, -, h⟩ | ⟨-, -, h⟩ | ⟨-, -, h⟩ | ⟨-, p, -, -, -, h⟩ | ⟨-, p, -, -, -, h⟩ := linkRx_cases x s <;>
    rw [h]

/-- One poll of a waiting enqueue finds room or leaves the queue's storage (R205). -/
theorem enqPoll_muxTxq (w : EnqWait) (s : State) :
    s.muxUsed.toNat < 8 ∨ (enqPoll w s).muxTxq = s.muxTxq := by
  obtain ⟨hroom, -⟩ | ⟨-, -, h⟩ | ⟨-, -, h⟩ := enqPoll_cases w s
  · exact .inl (s.txqRoom_iff.1 hroom)
  · exact .inr (by rw [h, endWait_muxTxq, State.count_muxTxq])
  · exact .inr (by rw [h])

/-- `MUX.ENQ` finds room or leaves the queue's storage (R204). -/
theorem exec_muxEnq_muxTxq {ch : Chan} {b : Byte} {blk : Bool} {s t : State} (h : exec (.muxEnq ch b blk) s = .next t) :
    s.muxUsed.toNat < 8 ∨ t.muxTxq = s.muxTxq := by
  obtain ⟨hroom, -⟩ | ⟨-, -, rfl⟩ | ⟨-, -, -, rfl⟩ := exec_muxEnq_cases h
  · exact .inl (s.txqRoom_iff.1 hroom)
  · exact .inr (by rw [State.respond_muxTxq, State.count_muxTxq])
  · exact .inr rfl

/-- Only a `MUX.ENQ` or an `EV.ENQRETRY` that finds room writes the queue's storage; `EV.RESET` writes it no more than the
others in this model (log entry 10). -/
theorem exec_muxTxq {i : Instr} {s t : State} (h : exec i s = .next t) :
    t.muxTxq = s.muxTxq ∨ (s.muxUsed.toNat < 8 ∧ ((∃ ch b blk, i = .muxEnq ch b blk) ∨ i = .evEnqretry)) := by
  cases i with
  | muxEnq ch b blk => exact (exec_muxEnq_muxTxq h).symm.imp_right fun hroom => ⟨hroom, .inl ⟨ch, b, blk, rfl⟩⟩
  | evEnqretry =>
    obtain ⟨w, -, rfl⟩ := exec_evEnqretry_cases h
    exact (enqPoll_muxTxq w s).symm.imp_right fun hroom => ⟨hroom, .inr rfl⟩
  | cntRd idx => obtain ⟨c, -, rfl⟩ | ⟨-, rfl⟩ := exec_cntRd_cases h <;> exact .inl rfl
  | evfSet m => obtain ⟨-, rfl⟩ | ⟨-, rfl⟩ := exec_evfSet_cases h <;> exact .inl rfl
  | evfClr m => obtain ⟨-, rfl⟩ | ⟨-, rfl⟩ := exec_evfClr_cases h <;> exact .inl rfl
  | evfTst m => obtain ⟨-, rfl⟩ | ⟨-, rfl⟩ := exec_evfTst_cases h <;> exact .inl rfl
  | rbufPush b =>
    obtain ⟨u, hu, rfl⟩ := exec_rbufPush_cases h
    exact .inl ((u.respond_muxTxq .ok 0).trans (rbufPush_muxTxq hu))
  | rbufPop => obtain ⟨-, rfl⟩ | ⟨-, -, rfl⟩ := exec_rbufPop_cases h <;> exact .inl rfl
  | rbufPeek off => obtain ⟨-, rfl⟩ | ⟨-, rfl⟩ := exec_rbufPeek_cases h <;> exact .inl rfl
  | mtdSetthr t15 t35 psc =>
    obtain ⟨rfl, -⟩ | ⟨-, rfl⟩ | ⟨-, -, -, rfl⟩ := exec_mtdSetthr_cases h <;> exact .inl rfl
  | evBasetick => obtain ⟨-, rfl⟩ := exec_evBasetick_cases h; exact .inl (baseTick_muxTxq s)
  | evGaptick => obtain ⟨-, rfl⟩ | ⟨-, rfl⟩ := exec_evGaptick_cases h <;> exact .inl rfl
  | evMbrx data fe dor pe => obtain ⟨-, rfl⟩ := exec_evMbrx_cases h; exact .inl (mbReceive_muxTxq data _ s)
  | evConrx data => exact .inl (rbufPush_muxTxq (exec_evConrx_cases h).2)
  | evLink rx =>
    obtain ⟨-, rfl⟩ := exec_evLink_cases h
    exact .inl ((linkRx_muxTxq rx (linkTx s)).trans (linkTx_muxTxq s))
  | ienEnter | ienExit | ienOn | rbufAvail | rbufFlush | mtdRdgap | muxReg | evHookdone | evReset =>
    cases h
    exact .inl rfl

/-! ### The obligation -/

/-- Settles O41: with room the write position is none of the held slots, so a store appends; the queue past its read
position is the queue the link leaves; and the storage changes in a store alone. -/
theorem txqStoreAppendsAndLinkTakesTheOldest : Obligations.TxqStoreAppendsAndLinkTakesTheOldest := by
  refine ⟨fun ch b s hroom => ⟨txqStore_eq ch b hroom, txqEntries_txqStore ch b hroom⟩, fun s hlow e q hq => ?_,
    fun i s t h _ hchange => (exec_muxTxq h).resolve_left hchange⟩
  obtain ⟨hentries, houtputs, howed⟩ := linkTx_takes_oldest hlow hq
  refine ⟨hentries, ?_, howed⟩
  rw [newOutputs_eq houtputs]
  rfl

end Sys2Proof.Machine

/-! PROOFS. What a step can do, said once for all 24 operations: `Effect i s t`, one constructor per branch of a rule of
spec/40 to spec/45 and spec/70, is exactly `exec i s = .next t`. Claims over all operations are case analyses of it. -/

namespace Sys2Proof.Machine

/-! ### The shared rules in one equation each -/

/-- The state after `rbuf_push(b)`: a full buffer takes the sentinel and counts, another one the byte (R141). -/
def pushed (b : Byte) (s : State) : State :=
  { s with
    rbufMem := s.rbufMem.write s.rbufW.toNat (if s.rbufFull then 0x00#8 else b)
    rbufErr := if s.rbufFull then s.rbufErr.inc else s.rbufErr
    rbufW := if s.rbufFull then s.rbufW else BitVec.ofNat 8 (s.rbufNext s.rbufW) }

/-- With the write index in the space `rbuf_push` is taken (R61, R141). -/
theorem rbufPush_eq (b : Byte) {s : State} (hw : s.rbufW.toNat < s.cfg.rbufSize) :
    rbufPush b s = .next (pushed b s) := by
  obtain ⟨t, ht⟩ := rbufPush_next b s hw
  obtain ⟨-, ⟨hfull, rfl⟩ | ⟨hroom, rfl⟩⟩ := rbufPush_cases ht
  · simp [ht, pushed, hfull]
  · simp [ht, pushed, hroom]

/-- `rbuf_push` answers a next state exactly with the write index in the space. -/
theorem rbufPush_next_iff {b : Byte} {s t : State} :
    rbufPush b s = .next t ↔ s.rbufW.toNat < s.cfg.rbufSize ∧ t = pushed b s := by
  constructor
  · intro h
    obtain ⟨hw, -⟩ := rbufPush_cases h
    rw [rbufPush_eq b hw] at h
    cases h
    exact ⟨hw, rfl⟩
  · rintro ⟨hw, rfl⟩
    exact rbufPush_eq b hw

/-- The state after a received Modbus byte (R184). -/
def received (data : Byte) (ue : Bool) (s : State) : State :=
  { s with
    mtdGap := 0
    mtdErrcnt := if ue then s.mtdErrcnt.inc else s.mtdErrcnt
    mtdRxcnt := if ue then s.mtdRxcnt else s.mtdRxcnt.inc
    outputs := s.outputs ++ [.mbDeliver data (mbStatusOf (classify s.mtdGap s.mtdT15 s.mtdT35) ue)] }

theorem mbReceive_eq (data : Byte) (ue : Bool) (s : State) : mbReceive data ue s = received data ue s := by
  cases ue <;> rfl

/-- The link event will take an entry from the queue: no low transfer is owed and an entry is queued (R207). -/
abbrev TakesEntry (s : State) : Prop := s.muxTxlow = none ∧ 0 < s.muxUsed.toNat

/-- The oldest entry of the transmit queue, where one is queued (R29). -/
def oldestEntry (s : State) : TxEntry := s.txqLoad s.muxRpos

/-- The byte a link event sends (R207). -/
def linkSent (s : State) : Byte :=
  s.muxTxlow.getD (if 0 < s.muxUsed.toNat then hiXfer (oldestEntry s).ch (oldestEntry s).b else s.cfg.txIdle)

/-- What a link event delivers: the two nibbles of a matching pair, to a channel with a handler (R208). -/
def linkDelivered (x : Byte) (s : State) : List Output :=
  s.muxRxpend.toList.flatMap fun p =>
    if xferHigh x = false ∧ p.ch = xferCh x ∧ s.henLoad (xferCh x) = true then
      [.chDeliver (xferCh x) (joinNibbles p.nib (xferNib x))]
    else []

/-- The state after a link event: the transmit half, then the receive half (R206 to R208). -/
def linked (x : Byte) (s : State) : State :=
  { s with
    muxTxlow := if TakesEntry s then some (loXfer (oldestEntry s).ch (oldestEntry s).b) else none
    muxRpos := if TakesEntry s then s.muxRpos + 1 else s.muxRpos
    muxUsed := if TakesEntry s then s.muxUsed - 1 else s.muxUsed
    muxErr := if linkProtocolError s x then s.muxErr.inc else s.muxErr
    muxRxpend := if xferHigh x then some { ch := xferCh x, nib := xferNib x } else none
    outputs := s.outputs ++ .linkTx (linkSent s) :: linkDelivered x s }

/-- The transmit half in one equation (R207). -/
theorem linkTx_eq (s : State) : linkTx s = { s with
    muxTxlow := if TakesEntry s then some (loXfer (oldestEntry s).ch (oldestEntry s).b) else none
    muxRpos := if TakesEntry s then s.muxRpos + 1 else s.muxRpos
    muxUsed := if TakesEntry s then s.muxUsed - 1 else s.muxUsed
    outputs := s.outputs ++ [.linkTx (linkSent s)] } := by
  obtain ⟨l, howed, h⟩ | ⟨hlow, hused, h⟩ | ⟨hlow, hused, h⟩ := linkTx_cases s
  · simp [h, TakesEntry, linkSent, howed]
  · replace hused : 0 < s.muxUsed.toNat := hused
    simp [h, TakesEntry, linkSent, oldestEntry, hlow, hused]
  · replace hused : ¬ 0 < s.muxUsed.toNat := hused
    simp [h, TakesEntry, linkSent, hlow, hused]

/-- The receive half in one equation (R208). -/
theorem linkRx_eq (x : Byte) (s : State) : linkRx x s = { s with
    muxErr := if linkProtocolError s x then s.muxErr.inc else s.muxErr
    muxRxpend := if xferHigh x then some { ch := xferCh x, nib := xferNib x } else none
    outputs := s.outputs ++ linkDelivered x s } := by
  obtain ⟨hx, hp, h⟩ | ⟨hx, ⟨p, hp⟩, h⟩ | ⟨hx, hp, h⟩ | ⟨hx, ⟨p, hp, hch⟩, h⟩ | ⟨hx, p, hp, hch, hen, h⟩ |
    ⟨hx, p, hp, hch, hen, h⟩ := linkRx_cases x s
  · simp [h, linkProtocolError, linkDelivered, hx, hp]
  · simp [h, linkProtocolError, linkDelivered, hx, hp]
  · simp [h, linkProtocolError, linkDelivered, hx, hp]
  · simp [h, linkProtocolError, linkDelivered, hx, hp, hch]
  · simp [h, linkProtocolError, linkDelivered, hx, hp, hch, hen]
  · simp [h, linkProtocolError, linkDelivered, hx, hp, hch, hen]

theorem linkRx_linkTx (x : Byte) (s : State) : linkRx x (linkTx s) = linked x s := by
  rw [linkRx_eq, linkTx_eq]
  simp only [linked, List.append_assoc, List.singleton_append]
  rfl

/-! ### The step relation -/

/-- A command that only answers: the operation, the state it reads, its response. -/
inductive Answer : Instr → State → Status → Half → Prop
  | cntRd {idx s c} (hidx : counterOfIdx idx = some c) : Answer (.cntRd idx) s .ok (s.counter c).value
  | cntRdRefused {idx s} (hidx : counterOfIdx idx = none) : Answer (.cntRd idx) s .refused 0
  | evfSetRefused {m s} (hwide : ¬ m.toNat < 2 ^ s.cfg.evfW) : Answer (.evfSet m) s .refused 0
  | evfClrRefused {m s} (hwide : ¬ m.toNat < 2 ^ s.cfg.evfW) : Answer (.evfClr m) s .refused 0
  | evfTst {m s} (hfits : m.toNat < 2 ^ s.cfg.evfW) : Answer (.evfTst m) s .ok (boolVal (evfMember s.evfFlags m))
  | evfTstRefused {m s} (hwide : ¬ m.toNat < 2 ^ s.cfg.evfW) : Answer (.evfTst m) s .refused 0
  | rbufPopEmpty {s} (hempty : s.rbufR = s.rbufW) : Answer .rbufPop s .empty 0
  | rbufAvail {s} : Answer .rbufAvail s .ok (BitVec.ofNat 16 s.rbufHeld)
  | rbufPeekRange {off s} (hrange : s.rbufHeld ≤ off.toNat) : Answer (.rbufPeek off) s .range 0
  | rbufPeek {off s} (hheld : ¬ s.rbufHeld ≤ off.toNat)
      (hslot : (s.rbufR.toNat + off.toNat) % s.cfg.rbufSize < s.cfg.rbufSize) :
      Answer (.rbufPeek off) s .ok (zext16 (s.rbufMem.read ((s.rbufR.toNat + off.toNat) % s.cfg.rbufSize)))
  | mtdSetthrRefused {t15 t35 psc s}
      (hwide : ¬ (t15.toNat < 2 ^ s.cfg.gapW ∧ t35.toNat < 2 ^ s.cfg.gapW ∧ psc.toNat < 2 ^ s.cfg.pscW)) :
      Answer (.mtdSetthr t15 t35 psc) s .refused 0
  | mtdSetthrBadarg {t15 t35 psc s}
      (hfits : t15.toNat < 2 ^ s.cfg.gapW ∧ t35.toNat < 2 ^ s.cfg.gapW ∧ psc.toNat < 2 ^ s.cfg.pscW)
      (hbad : t35 ≤ t15) : Answer (.mtdSetthr t15 t35 psc) s .badarg 0
  | mtdRdgap {s} : Answer .mtdRdgap s .ok s.mtdGap

/-- The steps of the block: the operation, the state before, the state after. -/
inductive Effect : Instr → State → State → Prop
  | answer {i s st v} (hanswer : Answer i s st v) : Effect i s (s.respond st v)
  | ienEnter {s} : Effect .ienEnter s ({ s with ie := false }.respond .ok (boolVal s.ie))
  | ienExit {saved s} : Effect (.ienExit saved) s ({ s with ie := saved }.respond .ok 0)
  | ienOn {s} : Effect .ienOn s ({ s with ie := true }.respond .ok 0)
  | evfSet {m s} (hfits : m.toNat < 2 ^ s.cfg.evfW) : Effect (.evfSet m) s
      ({ s with evfFlags := evfSetBits s.evfFlags m }.respond .ok (boolVal (evfMember s.evfFlags m)))
  | evfClr {m s} (hfits : m.toNat < 2 ^ s.cfg.evfW) : Effect (.evfClr m) s
      ({ s with evfFlags := evfClearBits s.evfFlags m }.respond .ok (boolVal (evfMember s.evfFlags m)))
  | rbufPush {b s} (hw : s.rbufW.toNat < s.cfg.rbufSize) : Effect (.rbufPush b) s ((pushed b s).respond .ok 0)
  | rbufPop {s} (hheld : s.rbufR ≠ s.rbufW) (hr : s.rbufR.toNat < s.cfg.rbufSize) : Effect .rbufPop s
      ({ s with rbufR := BitVec.ofNat 8 (s.rbufNext s.rbufR) }.respond .ok (zext16 (s.rbufMem.read s.rbufR.toNat)))
  | rbufFlush {s} : Effect .rbufFlush s
      ({ s.emit .conDrain with rbufR := 0, rbufW := 0, rbufErr := s.rbufErr.zeroed }.respond .ok 0)
  | mtdSetthr {t15 t35 psc s}
      (hfits : t15.toNat < 2 ^ s.cfg.gapW ∧ t35.toNat < 2 ^ s.cfg.gapW ∧ psc.toNat < 2 ^ s.cfg.pscW)
      (hlt : t15 < t35) : Effect (.mtdSetthr t15 t35 psc) s
      (({ s with mtdT15 := t15, mtdT35 := t35, mtdPsc := psc }.emit (.pscSel psc)).respond .ok 0)
  | muxEnqStored {ch b blk s} (hroom : s.txqRoom = true) : Effect (.muxEnq ch b blk) s ((txqStore ch b s).respond .ok 0)
  | muxEnqFull {ch b blk s} (hfull : s.txqRoom = false) (hfails : blk = false ∨ s.muxEnqw.isSome = true) :
      Effect (.muxEnq ch b blk) s ({ s with muxErr := s.muxErr.inc }.respond .full 0)
  | muxEnqWaits {ch b s} (hfull : s.txqRoom = false) (hnone : s.muxEnqw = none) : Effect (.muxEnq ch b true) s
      ({ s with
        muxEnqw := some { ch := ch, b := b, left := s.cfg.enqRetryBudget, sie := s.ie }
        ie := true }.respond .wait 0)
  | muxReg {ch en s} : Effect (.muxReg ch en) s ((s.henStore ch en).respond .ok 0)
  | baseTickCounts {s} (hie : s.ie = true) (hdiv : s.schDiv < 4#3) :
      Effect .evBasetick s { s with schDiv := s.schDiv + 1 }
  | baseTickOverruns {s} (hie : s.ie = true) (hdiv : ¬ s.schDiv < 4#3) (hguard : s.schGuard = true) :
      Effect .evBasetick s { s with schDiv := 0, schTick := s.schTick + 1, schOvr := s.schOvr.inc }
  | baseTickIdles {s} (hie : s.ie = true) (hdiv : ¬ s.schDiv < 4#3) (hguard : s.schGuard = false)
      (hnone : lsbIndex (s.schTick + 1) = none) :
      Effect .evBasetick s { s with schDiv := 0, schTick := s.schTick + 1 }
  | baseTickFires {s k} (hie : s.ie = true) (hdiv : ¬ s.schDiv < 4#3) (hguard : s.schGuard = false)
      (hhook : lsbIndex (s.schTick + 1) = some k) : Effect .evBasetick s
      { s with schDiv := 0, schTick := s.schTick + 1, schGuard := true, outputs := s.outputs ++ [.hookFire k] }
  | evHookdone {s} : Effect .evHookdone s { s with schGuard := false }
  | gapTickCounts {s} (hgap : s.mtdGap.toNat < s.cfg.gapMax) : Effect .evGaptick s { s with mtdGap := s.mtdGap + 1 }
  | gapTickStops {s} (hgap : ¬ s.mtdGap.toNat < s.cfg.gapMax) : Effect .evGaptick s s
  | evMbrx {data fe dor pe s} (hie : s.ie = true) :
      Effect (.evMbrx data fe dor pe) s (received data (fe || dor || pe) s)
  | evConrx {b s} (hie : s.ie = true) (hw : s.rbufW.toNat < s.cfg.rbufSize) : Effect (.evConrx b) s (pushed b s)
  | evLink {x s} (hie : s.ie = true) : Effect (.evLink x) s (linked x s)
  | pollStores {s w} (hwait : s.muxEnqw = some w) (hroom : s.txqRoom = true) :
      Effect .evEnqretry s (endWait w .ok (txqStore w.ch w.b s))
  | pollFails {s w} (hwait : s.muxEnqw = some w) (hfull : s.txqRoom = false) (hlast : w.left = 1) :
      Effect .evEnqretry s (endWait w .full { s with muxErr := s.muxErr.inc })
  | pollWaits {s w} (hwait : s.muxEnqw = some w) (hfull : s.txqRoom = false) (hleft : w.left ≠ 1) :
      Effect .evEnqretry s { s with muxEnqw := some { w with left := w.left - 1 } }
  | evReset {s} : Effect .evReset s (resetBlock s)

/-! ### The relation is the step function -/

/-- `MTD.SETTHR` of operands within their widths is the rule's own choice (R183). -/
theorem exec_mtdSetthr_fits {t15 t35 : Half} {psc : BitVec 3} {s : State}
    (hfits : t15.toNat < 2 ^ s.cfg.gapW ∧ t35.toNat < 2 ^ s.cfg.gapW ∧ psc.toNat < 2 ^ s.cfg.pscW) :
    exec (.mtdSetthr t15 t35 psc) s = .next (setThresholds t15 t35 psc s) := by
  obtain ⟨h15, h35, hpsc⟩ := hfits
  simp only [exec, execMtdSetthr, legalCommand, (fitsWidth_iff _).2 h15, (fitsWidth_iff _).2 h35,
    (fitsWidth_iff _).2 hpsc, Bool.and_self, if_true]

/-- `MTD.SETTHR` of an operand beyond its width answers `REFUSED` (R86; log entry 12). -/
theorem exec_mtdSetthr_wide {t15 t35 : Half} {psc : BitVec 3} {s : State}
    (hwide : ¬ (t15.toNat < 2 ^ s.cfg.gapW ∧ t35.toNat < 2 ^ s.cfg.gapW ∧ psc.toNat < 2 ^ s.cfg.pscW)) :
    exec (.mtdSetthr t15 t35 psc) s = .next (s.respond .refused 0) := by
  have hfalse : (fitsWidth s.cfg.gapW t15 && fitsWidth s.cfg.gapW t35 && fitsWidth s.cfg.pscW psc) = false := by
    rw [← Bool.not_eq_true, Bool.and_eq_true, Bool.and_eq_true, fitsWidth_iff, fitsWidth_iff, fitsWidth_iff, and_assoc]
    exact hwide
  simp only [exec, execMtdSetthr, legalCommand, hfalse, Bool.false_eq_true, if_false]

/-- A command whose operand exceeds its width answers `REFUSED` (R86; log entry 12). -/
theorem legalCommand_wide {n w : Nat} {v : BitVec n} (h : ¬ v.toNat < 2 ^ w) (rule : State → State) (s : State) :
    legalCommand (fitsWidth w v) rule s = .next (s.respond .refused 0) := by
  rw [legalCommand, if_neg (mt (fitsWidth_iff v).1 h)]

/-- With `IE` = 1 `EV.LINK` is taken (R206, R254). -/
theorem exec_evLink_enabled (x : Byte) {s : State} (h : s.ie = true) : exec (.evLink x) s = .next (linked x s) := by
  rw [← linkRx_linkTx]
  exact acceptGated_enabled (fun t => .next (linkRx x (linkTx t))) s h

/-- With `IE` = 1 `EV.MBRX` is taken (R184, R254). -/
theorem exec_evMbrx_enabled (data : Byte) (fe dor pe : Bool) {s : State} (h : s.ie = true) :
    exec (.evMbrx data fe dor pe) s = .next (received data (fe || dor || pe) s) := by
  rw [← mbReceive_eq]
  exact acceptGated_enabled (fun t => .next (mbReceive data (uartError fe dor pe) t)) s h

/-- With `IE` = 1 `EV.CONRX` is `rbuf_push` (R146, R254). -/
theorem exec_evConrx_enabled (b : Byte) {s : State} (h : s.ie = true) : exec (.evConrx b) s = rbufPush b s :=
  acceptGated_enabled (rbufPush b) s h

/-- With a wait open `EV.ENQRETRY` is its poll (R205). -/
theorem exec_evEnqretry_waiting {s : State} {w : EnqWait} (hwait : s.muxEnqw = some w) :
    exec .evEnqretry s = .next (enqPoll w s) := by
  simp only [exec, execEvEnqretry, hwait]

/-- Every answer is the step of its command. -/
theorem exec_of_answer {i : Instr} {s : State} {st : Status} {v : Half} (h : Answer i s st v) :
    exec i s = .next (s.respond st v) := by
  cases h with
  | cntRd hidx => simp only [exec, execCntRd, hidx]
  | cntRdRefused hidx => simp only [exec, execCntRd, hidx]
  | evfSetRefused hwide => simp only [exec, execEvfSet, legalCommand_wide hwide]
  | evfClrRefused hwide => simp only [exec, execEvfClr, legalCommand_wide hwide]
  | evfTst hfits => exact exec_evfTst_fits hfits
  | evfTstRefused hwide => simp only [exec, execEvfTst, legalCommand_wide hwide]
  | rbufPopEmpty hempty => exact exec_rbufPop_empty hempty
  | rbufAvail => rfl
  | rbufPeekRange hrange => exact exec_rbufPeek_range hrange
  | rbufPeek hheld hslot => simp only [exec, execRbufPeek, if_neg hheld, State.rbufLoad_of_lt hslot]
  | mtdSetthrRefused hwide => exact exec_mtdSetthr_wide hwide
  | mtdSetthrBadarg hfits hbad => rw [exec_mtdSetthr_fits hfits, setThresholds, if_pos hbad]
  | mtdRdgap => rfl

/-- Every constructor of the relation is a step of the model. -/
theorem exec_of_effect {i : Instr} {s t : State} (h : Effect i s t) : exec i s = .next t := by
  cases h with
  | answer hanswer => exact exec_of_answer hanswer
  | evfSet hfits => exact exec_evfSet_fits hfits
  | evfClr hfits => exact exec_evfClr_fits hfits
  | rbufPush hw => simp only [exec, execRbufPush, rbufPush_eq _ hw]
  | rbufPop hheld hr => exact exec_rbufPop_held hheld hr
  | mtdSetthr hfits hlt => rw [exec_mtdSetthr_fits hfits, setThresholds, if_neg (BitVec.not_le.2 hlt)]
  | muxEnqStored hroom => simp only [exec, execMuxEnq, hroom, if_true]
  | muxEnqFull hfull hfails =>
    obtain rfl | hsome := hfails
    · simp [exec, execMuxEnq, hfull, State.count]
    · simp [exec, execMuxEnq, hfull, hsome, State.count]
  | muxEnqWaits hfull hnone => simp [exec, execMuxEnq, hfull, hnone]
  | baseTickCounts hie hdiv => rw [exec_evBasetick_enabled s hie, baseTick_of_div_lt hdiv]
  | baseTickOverruns hie hdiv hguard =>
    rw [exec_evBasetick_enabled s hie, baseTick_of_not_div_lt hdiv,
      schedTick_of_guard (s := { s with schDiv := 0 }) hguard]
  | baseTickIdles hie hdiv hguard hnone =>
    have htick := (lsbIndex_eq_none_iff _).1 hnone
    rw [exec_evBasetick_enabled s hie, baseTick_of_tick_zero s hdiv hguard htick, htick]
  | baseTickFires hie hdiv hguard hhook =>
    rw [exec_evBasetick_enabled s hie, baseTick_of_not_div_lt hdiv,
      schedTick_of_hook (s := { s with schDiv := 0 }) hguard hhook]
  | gapTickCounts hgap => simp only [exec, execEvGaptick, if_pos hgap]
  | gapTickStops hgap => simp only [exec, execEvGaptick, if_neg hgap]
  | evMbrx hie => exact exec_evMbrx_enabled _ _ _ _ hie
  | evConrx hie hw => rw [exec_evConrx_enabled _ hie, rbufPush_eq _ hw]
  | evLink hie => exact exec_evLink_enabled _ hie
  | pollStores hwait hroom => simp only [exec_evEnqretry_waiting hwait, enqPoll, hroom, if_true]
  | pollFails hwait hfull hlast => simp [exec_evEnqretry_waiting hwait, enqPoll, hfull, hlast, State.count]
  | pollWaits hwait hfull hleft => simp [exec_evEnqretry_waiting hwait, enqPoll, hfull, hleft]
  | ienEnter | ienExit | ienOn | rbufFlush | muxReg | evHookdone | evReset => rfl

/-- Every step of the model is a constructor of the relation. -/
theorem effect_of_exec {i : Instr} {s t : State} (h : exec i s = .next t) : Effect i s t := by
  cases i with
  | cntRd idx =>
    obtain ⟨c, hidx, rfl⟩ | ⟨hidx, rfl⟩ := exec_cntRd_cases h
    · exact .answer (.cntRd hidx)
    · exact .answer (.cntRdRefused hidx)
  | evfSet m =>
    obtain ⟨hfits, rfl⟩ | ⟨hwide, rfl⟩ := exec_evfSet_cases h
    · exact .evfSet hfits
    · exact .answer (.evfSetRefused hwide.not_gt)
  | evfClr m =>
    obtain ⟨hfits, rfl⟩ | ⟨hwide, rfl⟩ := exec_evfClr_cases h
    · exact .evfClr hfits
    · exact .answer (.evfClrRefused hwide.not_gt)
  | evfTst m =>
    obtain ⟨hfits, rfl⟩ | ⟨hwide, rfl⟩ := exec_evfTst_cases h
    · exact .answer (.evfTst hfits)
    · exact .answer (.evfTstRefused hwide.not_gt)
  | rbufPush b =>
    obtain ⟨u, hu, rfl⟩ := exec_rbufPush_cases h
    obtain ⟨hw, rfl⟩ := rbufPush_next_iff.1 hu
    exact .rbufPush hw
  | rbufPop =>
    obtain ⟨hempty, rfl⟩ | ⟨hheld, hr, rfl⟩ := exec_rbufPop_cases h
    · exact .answer (.rbufPopEmpty hempty)
    · exact .rbufPop hheld hr
  | rbufPeek off =>
    obtain ⟨hrange, rfl⟩ | ⟨hheld, rfl⟩ := exec_rbufPeek_cases h
    · exact .answer (.rbufPeekRange hrange)
    · have hpos : 0 < s.cfg.rbufSize := by
        by_contra hzero
        simp [execRbufPeek, exec, State.rbufLoad, hheld.not_ge, Nat.eq_zero_of_not_pos hzero] at h
      exact .answer (.rbufPeek hheld.not_ge (Nat.mod_lt _ hpos))
  | mtdSetthr t15 t35 psc =>
    by_cases hfits : t15.toNat < 2 ^ s.cfg.gapW ∧ t35.toNat < 2 ^ s.cfg.gapW ∧ psc.toNat < 2 ^ s.cfg.pscW
    · obtain ⟨-, hwide⟩ | ⟨hbad, rfl⟩ | ⟨hlt, -, -, rfl⟩ := exec_mtdSetthr_cases h
      · exact absurd hfits hwide
      · exact .answer (.mtdSetthrBadarg hfits hbad)
      · exact .mtdSetthr hfits hlt
    · rw [exec_mtdSetthr_wide hfits] at h
      cases h
      exact .answer (.mtdSetthrRefused hfits)
  | muxEnq ch b blk =>
    obtain ⟨hroom, rfl⟩ | ⟨hfull, hfails, rfl⟩ | ⟨hfull, rfl, hnone, rfl⟩ := exec_muxEnq_cases h
    · exact .muxEnqStored hroom
    · exact .muxEnqFull hfull hfails
    · exact .muxEnqWaits hfull hnone
  | evBasetick =>
    obtain ⟨hie, rfl⟩ := exec_evBasetick_cases h
    obtain ⟨hdiv, hb⟩ | ⟨hdiv, hguard, hb⟩ | ⟨hdiv, hguard, hnone, hb⟩ | ⟨hdiv, hguard, k, hhook, hb⟩ :=
      baseTick_cases s <;> rw [hb]
    · exact .baseTickCounts hie hdiv
    · exact .baseTickOverruns hie hdiv hguard
    · exact .baseTickIdles hie hdiv hguard hnone
    · exact .baseTickFires hie hdiv hguard hhook
  | evGaptick =>
    obtain ⟨hgap, rfl⟩ | ⟨hgap, rfl⟩ := exec_evGaptick_cases h
    · exact .gapTickCounts hgap
    · exact .gapTickStops hgap
  | evMbrx data fe dor pe =>
    obtain ⟨hie, rfl⟩ := exec_evMbrx_cases h
    rw [mbReceive_eq]
    exact .evMbrx hie
  | evConrx b =>
    obtain ⟨hie, hpush⟩ := exec_evConrx_cases h
    obtain ⟨hw, rfl⟩ := rbufPush_next_iff.1 hpush
    exact .evConrx hie hw
  | evLink x =>
    obtain ⟨hie, rfl⟩ := exec_evLink_cases h
    rw [linkRx_linkTx]
    exact .evLink hie
  | evEnqretry =>
    obtain ⟨w, hwait, rfl⟩ := exec_evEnqretry_cases h
    obtain ⟨hroom, hp⟩ | ⟨hfull, hlast, hp⟩ | ⟨hfull, hleft, hp⟩ := enqPoll_cases w s <;> rw [hp]
    · exact .pollStores hwait hroom
    · exact .pollFails hwait hfull hlast
    · exact .pollWaits hwait hfull hleft
  | rbufAvail => cases h; exact .answer .rbufAvail
  | mtdRdgap => cases h; exact .answer .mtdRdgap
  | ienEnter => cases h; exact .ienEnter
  | ienExit saved => cases h; exact .ienExit
  | ienOn => cases h; exact .ienOn
  | rbufFlush => cases h; exact .rbufFlush
  | muxReg ch en => cases h; exact .muxReg
  | evHookdone => cases h; exact .evHookdone
  | evReset => cases h; exact .evReset

/-- The relation and the step function say the same. -/
theorem exec_next_iff {i : Instr} {s t : State} : exec i s = .next t ↔ Effect i s t :=
  ⟨effect_of_exec, exec_of_effect⟩

end Sys2Proof.Machine

/-! PROOFS. The encoding (spec/30_encoding.md): the decoder accepts exactly the words of the encoder, and rejects
by name exactly the words of R86 (R80 to R83, R86). -/

namespace Sys2Proof

/-! ### Fields of a word -/

/-- A run of bits is two runs side by side exactly when each part is its own run. -/
theorem extractLsb'_eq_append_iff {m : Nat} (w : BitVec m) (s n k : Nat) (x : BitVec n) (y : BitVec k) :
    w.extractLsb' s (n + k) = x ++ y ↔ w.extractLsb' (s + k) n = x ∧ w.extractLsb' s k = y := by
  rw [← BitVec.extractLsb'_append_extractLsb'_eq_extractLsb' (x := w) (rfl : s + k = s + k)]
  constructor
  · intro h
    have hhigh := congrArg (BitVec.extractLsb' k n) h
    have hlow := congrArg (BitVec.extractLsb' 0 k) h
    rw [BitVec.extractLsb'_append_eq_of_le le_rfl, BitVec.extractLsb'_append_eq_of_le le_rfl, Nat.sub_self,
      BitVec.extractLsb'_eq_self, BitVec.extractLsb'_eq_self] at hhigh
    rw [BitVec.extractLsb'_append_eq_of_add_le (by omega), BitVec.extractLsb'_append_eq_of_add_le (by omega),
      BitVec.extractLsb'_eq_self, BitVec.extractLsb'_eq_self] at hlow
    exact ⟨hhigh, hlow⟩
  · rintro ⟨rfl, rfl⟩
    rfl

/-- A run of one bit is that bit. -/
theorem extractLsb'_one_eq_ofBool_iff {m : Nat} (w : BitVec m) (s : Nat) (p : Bool) :
    w.extractLsb' s 1 = BitVec.ofBool p ↔ w.getLsbD s = p := by
  have hbit : w.extractLsb' s 1 = BitVec.ofBool (w.getLsbD s) := by
    refine BitVec.eq_of_getLsbD_eq fun j hj => ?_
    obtain rfl : j = 0 := by omega
    simp
  rw [hbit]
  cases w.getLsbD s <;> cases p <;> decide

/-- The word with opcode `opc` and operand area `area`, by its two parts (R80). -/
theorem eq_append_iff (w : Word) (opc : BitVec 8) (area : BitVec 40) :
    w = opc ++ area ↔ opcodeOf w = opc ∧ w.extractLsb' 0 40 = area := by
  have h := extractLsb'_eq_append_iff w 0 8 40 opc area
  rwa [show w.extractLsb' 0 (8 + 40) = w from BitVec.extractLsb'_eq_self] at h

/-! ### What each format accepts -/

theorem whenReservedZero_ok_iff {w : Word} {z : Bool} {i j : Instr} :
    whenReservedZero w z i = .ok j ↔ z = true ∧ j = i := by
  cases z <;> simp [whenReservedZero, eq_comm]

section Formats

variable {w : Word} {j : Instr}

theorem decodeN_ok_iff {i : Instr} : decodeN w i = .ok j ↔ w.extractLsb' 0 40 = 0#40 ∧ j = i := by
  rw [decodeN, whenReservedZero_ok_iff, beq_iff_eq]

theorem decodeS_ok_iff {f : Bool → Instr} :
    decodeS w f = .ok j ↔ ∃ p, w.extractLsb' 0 40 = 0#39 ++ BitVec.ofBool p ∧ j = f p := by
  simp only [extractLsb'_eq_append_iff w 0 39 1, extractLsb'_one_eq_ofBool_iff, decodeS, whenReservedZero_ok_iff,
    beq_iff_eq, Nat.zero_add, and_assoc, exists_and_left, exists_eq_left']

theorem decodeI_ok_iff {f : BitVec 3 → Instr} :
    decodeI w f = .ok j ↔ ∃ idx, w.extractLsb' 0 40 = 0#37 ++ idx ∧ idx.toNat ≤ 4 ∧ j = f idx := by
  simp only [extractLsb'_eq_append_iff w 0 37 3, Nat.zero_add, and_assoc, exists_and_left, exists_eq_left', decodeI]
  by_cases hzero : w.extractLsb' 3 37 = 0#37
  · by_cases hidx : (w.extractLsb' 0 3).toNat ≤ 4
    · simp only [beq_iff_eq, hzero, hidx, if_true, true_and, Except.ok.injEq]
      exact eq_comm
    · simp only [beq_iff_eq, hzero, hidx, if_true, if_false, false_and, and_false, reduceCtorEq]
  · simp only [beq_iff_eq, hzero, if_false, false_and, reduceCtorEq]

theorem decodeB_ok_iff {f : Byte → Instr} :
    decodeB w f = .ok j ↔ ∃ m, w.extractLsb' 0 40 = 0#32 ++ m ∧ j = f m := by
  simp only [extractLsb'_eq_append_iff w 0 32 8, decodeB, whenReservedZero_ok_iff, beq_iff_eq, Nat.zero_add, and_assoc,
    exists_and_left, exists_eq_left']

theorem decodeT_ok_iff {f : Half → Half → BitVec 3 → Instr} :
    decodeT w f = .ok j ↔
      ∃ t15 t35 psc, w.extractLsb' 0 40 = 0#5 ++ psc ++ t35 ++ t15 ∧ j = f t15 t35 psc := by
  simp only [extractLsb'_eq_append_iff w 0 24 16, extractLsb'_eq_append_iff w 16 8 16,
    extractLsb'_eq_append_iff w 32 5 3, decodeT, whenReservedZero_ok_iff, beq_iff_eq, Nat.zero_add, Nat.reduceAdd]
  constructor
  · rintro ⟨hzero, rfl⟩
    exact ⟨_, _, _, ⟨⟨⟨hzero, rfl⟩, rfl⟩, rfl⟩, rfl⟩
  · rintro ⟨_, _, _, ⟨⟨⟨hzero, rfl⟩, rfl⟩, rfl⟩, rfl⟩
    exact ⟨hzero, rfl⟩

theorem decodeQ_ok_iff {f : Chan → Byte → Bool → Instr} :
    decodeQ w f = .ok j ↔
      ∃ ch b blk, w.extractLsb' 0 40 = 0#27 ++ BitVec.ofBool blk ++ 0#1 ++ ch ++ b ∧ j = f ch b blk := by
  have hbit : w.extractLsb' 11 1 = 0#1 ↔ w.getLsbD 11 = false := extractLsb'_one_eq_ofBool_iff w 11 false
  simp only [extractLsb'_eq_append_iff w 0 32 8, extractLsb'_eq_append_iff w 8 29 3,
    extractLsb'_eq_append_iff w 11 28 1, extractLsb'_eq_append_iff w 12 27 1, extractLsb'_one_eq_ofBool_iff, hbit,
    decodeQ, whenReservedZero_ok_iff, Bool.and_eq_true, Bool.not_eq_true', beq_iff_eq, Nat.zero_add, Nat.reduceAdd]
  constructor
  · rintro ⟨⟨hzero, hbit11⟩, rfl⟩
    exact ⟨_, _, _, ⟨⟨⟨⟨hzero, rfl⟩, hbit11⟩, rfl⟩, rfl⟩, rfl⟩
  · rintro ⟨_, _, _, ⟨⟨⟨⟨hzero, rfl⟩, hbit11⟩, rfl⟩, rfl⟩, rfl⟩
    exact ⟨⟨hzero, hbit11⟩, rfl⟩

theorem decodeH_ok_iff {f : Chan → Bool → Instr} :
    decodeH w f = .ok j ↔
      ∃ ch en, w.extractLsb' 0 40 = 0#29 ++ ch ++ 0#7 ++ BitVec.ofBool en ∧ j = f ch en := by
  simp only [extractLsb'_eq_append_iff w 0 39 1, extractLsb'_eq_append_iff w 1 32 7,
    extractLsb'_eq_append_iff w 8 29 3, extractLsb'_one_eq_ofBool_iff, decodeH, whenReservedZero_ok_iff,
    Bool.and_eq_true, beq_iff_eq, Nat.zero_add, Nat.reduceAdd]
  constructor
  · rintro ⟨⟨hhigh, hlow⟩, rfl⟩
    exact ⟨_, _, ⟨⟨⟨hhigh, rfl⟩, hlow⟩, rfl⟩, rfl⟩
  · rintro ⟨_, _, ⟨⟨⟨hhigh, rfl⟩, hlow⟩, rfl⟩, rfl⟩
    exact ⟨⟨hhigh, hlow⟩, rfl⟩

theorem decodeR_ok_iff {f : Byte → Bool → Bool → Bool → Instr} :
    decodeR w f = .ok j ↔
      ∃ data fe dor pe,
        w.extractLsb' 0 40 = 0#29 ++ BitVec.ofBool fe ++ BitVec.ofBool dor ++ BitVec.ofBool pe ++ data ∧
        j = f data fe dor pe := by
  simp only [extractLsb'_eq_append_iff w 0 32 8, extractLsb'_eq_append_iff w 8 31 1,
    extractLsb'_eq_append_iff w 9 30 1, extractLsb'_eq_append_iff w 10 29 1, extractLsb'_one_eq_ofBool_iff,
    decodeR, whenReservedZero_ok_iff, beq_iff_eq, Nat.zero_add, Nat.reduceAdd]
  constructor
  · rintro ⟨hzero, rfl⟩
    exact ⟨_, _, _, _, ⟨⟨⟨⟨hzero, rfl⟩, rfl⟩, rfl⟩, rfl⟩, rfl⟩
  · rintro ⟨_, _, _, _, ⟨⟨⟨⟨hzero, rfl⟩, rfl⟩, rfl⟩, rfl⟩, rfl⟩
    exact ⟨hzero, rfl⟩

end Formats

/-! ### The row of an operation -/

/-- What the decoder does with a word of the operation's opcode: the row of the opcode map (R83). -/
def Instr.rowDecode (w : Word) : Instr → Except DecodeError Instr
  | .ienEnter => decodeN w .ienEnter
  | .ienExit _ => decodeS w .ienExit
  | .ienOn => decodeN w .ienOn
  | .cntRd _ => decodeI w .cntRd
  | .evfSet _ => decodeB w .evfSet
  | .evfClr _ => decodeB w .evfClr
  | .evfTst _ => decodeB w .evfTst
  | .rbufPush _ => decodeB w .rbufPush
  | .rbufPop => decodeN w .rbufPop
  | .rbufAvail => decodeN w .rbufAvail
  | .rbufPeek _ => decodeB w .rbufPeek
  | .rbufFlush => decodeN w .rbufFlush
  | .mtdSetthr _ _ _ => decodeT w .mtdSetthr
  | .mtdRdgap => decodeN w .mtdRdgap
  | .muxEnq _ _ _ => decodeQ w .muxEnq
  | .muxReg _ _ => decodeH w .muxReg
  | .evBasetick => decodeN w .evBasetick
  | .evHookdone => decodeN w .evHookdone
  | .evGaptick => decodeN w .evGaptick
  | .evMbrx _ _ _ _ => decodeR w .evMbrx
  | .evConrx _ => decodeB w .evConrx
  | .evLink _ => decodeB w .evLink
  | .evEnqretry => decodeN w .evEnqretry
  | .evReset => decodeN w .evReset

/-- A word of a listed opcode is decoded by its row. -/
theorem decode_of_opcode {w : Word} {i : Instr} (h : opcodeOf w = i.opcode) : decode w = i.rowDecode w := by
  unfold decode
  rw [h]
  cases i <;> rfl

/-- A row accepts the operand area of each of its well-formed operations. -/
theorem rowDecode_of_operands {w : Word} {i : Instr} (hwf : i.wf = true) (harea : w.extractLsb' 0 40 = i.operands) :
    i.rowDecode w = .ok i := by
  cases i with
  | ienExit p => exact decodeS_ok_iff.2 ⟨p, harea, rfl⟩
  | cntRd idx => exact decodeI_ok_iff.2 ⟨idx, harea, of_decide_eq_true hwf, rfl⟩
  | evfSet m | evfClr m | evfTst m | rbufPush m | rbufPeek m | evConrx m | evLink m =>
    exact decodeB_ok_iff.2 ⟨m, harea, rfl⟩
  | mtdSetthr t15 t35 psc => exact decodeT_ok_iff.2 ⟨t15, t35, psc, harea, rfl⟩
  | muxEnq ch b blk => exact decodeQ_ok_iff.2 ⟨ch, b, blk, harea, rfl⟩
  | muxReg ch en => exact decodeH_ok_iff.2 ⟨ch, en, harea, rfl⟩
  | evMbrx data fe dor pe => exact decodeR_ok_iff.2 ⟨data, fe, dor, pe, harea, rfl⟩
  | ienEnter | ienOn | rbufPop | rbufAvail | rbufFlush | mtdRdgap | evBasetick | evHookdone | evGaptick | evEnqretry
  | evReset => exact decodeN_ok_iff.2 ⟨harea, rfl⟩

/-- A row accepts nothing else: what it decodes to is a well-formed operation of its opcode with the word's area. -/
theorem operands_of_rowDecode {w : Word} {i j : Instr} (h : i.rowDecode w = .ok j) :
    j.opcode = i.opcode ∧ w.extractLsb' 0 40 = j.operands ∧ j.wf = true := by
  cases i with
  | ienExit =>
    obtain ⟨p, harea, rfl⟩ := decodeS_ok_iff.1 h
    exact ⟨rfl, harea, rfl⟩
  | cntRd =>
    obtain ⟨idx, harea, hidx, rfl⟩ := decodeI_ok_iff.1 h
    exact ⟨rfl, harea, decide_eq_true hidx⟩
  | evfSet | evfClr | evfTst | rbufPush | rbufPeek | evConrx | evLink =>
    obtain ⟨m, harea, rfl⟩ := decodeB_ok_iff.1 h
    exact ⟨rfl, harea, rfl⟩
  | mtdSetthr =>
    obtain ⟨t15, t35, psc, harea, rfl⟩ := decodeT_ok_iff.1 h
    exact ⟨rfl, harea, rfl⟩
  | muxEnq =>
    obtain ⟨ch, b, blk, harea, rfl⟩ := decodeQ_ok_iff.1 h
    exact ⟨rfl, harea, rfl⟩
  | muxReg =>
    obtain ⟨ch, en, harea, rfl⟩ := decodeH_ok_iff.1 h
    exact ⟨rfl, harea, rfl⟩
  | evMbrx =>
    obtain ⟨data, fe, dor, pe, harea, rfl⟩ := decodeR_ok_iff.1 h
    exact ⟨rfl, harea, rfl⟩
  | ienEnter | ienOn | rbufPop | rbufAvail | rbufFlush | mtdRdgap | evBasetick | evHookdone | evGaptick | evEnqretry
  | evReset =>
    obtain ⟨harea, rfl⟩ := decodeN_ok_iff.1 h
    exact ⟨rfl, harea, rfl⟩

/-! ### The listed opcodes -/

/-- One operation of each row, in the order of R83. -/
def rowInstrs : List Instr :=
  [.ienEnter, .ienExit false, .ienOn, .cntRd 0, .evfSet 0, .evfClr 0, .evfTst 0, .rbufPush 0, .rbufPop, .rbufAvail,
   .rbufPeek 0, .rbufFlush, .mtdSetthr 0 0 0, .mtdRdgap, .muxEnq 0 0 false, .muxReg 0 false, .evBasetick, .evHookdone,
   .evGaptick, .evMbrx 0 false false false, .evConrx 0, .evLink 0, .evEnqretry, .evReset]

/-- The mask of the `n` bits from bit `k` up. -/
def runMask (k n : Nat) : Word := (BitVec.allOnes n).setWidth 48 <<< k

/-- The reserved bits of each operation's format (R81). -/
def Instr.reservedMask : Instr → Word
  | .ienExit _ => runMask 1 39
  | .cntRd _ => runMask 3 37
  | .evfSet _ => runMask 8 32
  | .evfClr _ => runMask 8 32
  | .evfTst _ => runMask 8 32
  | .rbufPush _ => runMask 8 32
  | .rbufPeek _ => runMask 8 32
  | .evConrx _ => runMask 8 32
  | .evLink _ => runMask 8 32
  | .mtdSetthr _ _ _ => runMask 35 5
  | .muxEnq _ _ _ => runMask 13 27 ||| runMask 11 1
  | .muxReg _ _ => runMask 11 29 ||| runMask 1 7
  | .evMbrx _ _ _ _ => runMask 11 29
  | _ => runMask 0 40

/-- The mask column of R83, without the opcode bits, is the reserved bits of each row's format. -/
theorem opcodeRows_eq_map : Machine.opcodeRows = rowInstrs.map fun i => (i.opcode, i.reservedMask) := by
  decide

/-- Each listed row is the row of an operation. -/
theorem exists_instr_of_mem_opcodeRows {r : BitVec 8 × Word} (hr : r ∈ Machine.opcodeRows) :
    ∃ i : Instr, i.opcode = r.1 ∧ i.reservedMask = r.2 := by
  rw [opcodeRows_eq_map] at hr
  obtain ⟨i, -, rfl⟩ := List.mem_map.1 hr
  exact ⟨i, rfl, rfl⟩

/-- A word whose opcode no row lists is rejected by its opcode (R83, R86). -/
theorem decode_of_unlisted {w : Word} (h : ∀ r ∈ Machine.opcodeRows, opcodeOf w ≠ r.1) :
    decode w = .error (opcodeError w) := by
  simp only [Machine.opcodeRows, List.forall_mem_cons, List.not_mem_nil, false_imp_iff, implies_true, and_true,
    BitVec.ofNat_eq_ofNat] at h
  simp only [decode, h, if_false]

/-- A word that decodes has the opcode of some row, which decodes it. -/
theorem exists_row_of_decode_ok {w : Word} {j : Instr} (h : decode w = .ok j) :
    ∃ i : Instr, opcodeOf w = i.opcode ∧ i.rowDecode w = .ok j := by
  by_cases hlisted : ∀ r ∈ Machine.opcodeRows, opcodeOf w ≠ r.1
  · simp [decode_of_unlisted hlisted] at h
  · push Not at hlisted
    obtain ⟨r, hr, hopc⟩ := hlisted
    obtain ⟨i, hi, -⟩ := exists_instr_of_mem_opcodeRows hr
    rw [← hi] at hopc
    exact ⟨i, hopc, decode_of_opcode hopc ▸ h⟩

/-! ### Decode and encode -/

/-- Settles O1: the encoder's word has the operation's opcode, so its row decodes it, and its area is accepted there. -/
theorem decodeOfEncodeIsTheInstruction : Obligations.DecodeOfEncodeIsTheInstruction := by
  intro i hwf
  obtain ⟨hopc, harea⟩ := (eq_append_iff (encode i) i.opcode i.operands).1 rfl
  rw [decode_of_opcode hopc]
  exact rowDecode_of_operands hwf harea

/-- Settles O2: a row that decodes a word fixes its opcode and its whole operand area. -/
theorem encodeOfDecodeIsTheWord : Obligations.EncodeOfDecodeIsTheWord := by
  intro w j h
  obtain ⟨i, hopc, hrow⟩ := exists_row_of_decode_ok h
  obtain ⟨hj, harea, hwf⟩ := operands_of_rowDecode hrow
  exact ⟨((eq_append_iff w j.opcode j.operands).2 ⟨hopc.trans hj.symm, harea⟩).symm, hwf⟩

/-- Settles O3: the six words are closed terms of the decoder. -/
theorem specExampleWordsDecode : Obligations.SpecExampleWordsDecode := by
  unfold Obligations.SpecExampleWordsDecode
  decide

/-! ### Reserved bits -/

/-- Masking a run of bits gives 0 exactly when the run is 0. -/
theorem and_runMask_eq_zero_iff (w : Word) {k n : Nat} (hkn : k + n ≤ 48) :
    w &&& runMask k n = 0 ↔ w.extractLsb' k n = 0#n := by
  have hmask (j : Nat) (hj : j < 48) : (runMask k n).getLsbD j = decide (k ≤ j ∧ j < k + n) := by
    simp only [runMask, BitVec.getLsbD_shiftLeft, BitVec.getLsbD_setWidth, BitVec.getLsbD_allOnes]
    by_cases hk : k ≤ j
    · have hlt : j - k < n ↔ j < k + n := by omega
      simp [hj, hk, hk.not_gt, hlt]
      omega
    · simp [hk, Nat.lt_of_not_le hk]
  constructor
  · intro h
    refine BitVec.eq_of_getLsbD_eq fun j hj => ?_
    have hbit := congrArg (fun v : Word => v.getLsbD (k + j)) h
    simpa [hmask (k + j) (by omega), hj] using hbit
  · intro h
    refine BitVec.eq_of_getLsbD_eq fun j hj => ?_
    rw [BitVec.getLsbD_and, hmask j hj]
    by_cases hrun : k ≤ j ∧ j < k + n
    · have hbit := congrArg (fun v : BitVec n => v.getLsbD (j - k)) h
      have hlt : j - k < n := by omega
      simpa [hlt, Nat.add_sub_cancel' hrun.1, hrun] using hbit
    · simp [hrun]

/-- A reserved bit is 0 exactly when its mask gives 0. -/
theorem and_runMask_one_eq_zero_iff (w : Word) {k : Nat} (hk : k + 1 ≤ 48) :
    w &&& runMask k 1 = 0 ↔ w.getLsbD k = false :=
  (and_runMask_eq_zero_iff w hk).trans (extractLsb'_one_eq_ofBool_iff w k false)

/-- Masking two sets of bits gives 0 exactly when masking each does. -/
theorem and_or_eq_zero_iff (w m n : Word) : w &&& (m ||| n) = 0 ↔ w &&& m = 0 ∧ w &&& n = 0 := by
  rw [BitVec.and_or_distrib_left, BitVec.ofNat_eq_ofNat, BitVec.or_eq_zero_iff]

/-- The word is decoded to some operation, unless a bit of the mask is set in it; then its reserved bits are named
(R81, R86). -/
def AcceptsUnlessReserved (w mask : Word) (d : Except DecodeError Instr) : Prop :=
  ∃ j, d = if w &&& mask = 0 then .ok j else .error (reservedError w)

theorem whenReservedZero_accepts {w mask : Word} {z : Bool} (hz : z = true ↔ w &&& mask = 0) (j : Instr) :
    AcceptsUnlessReserved w mask (whenReservedZero w z j) :=
  ⟨j, by simp only [whenReservedZero, hz]⟩

/-- A format whose reserved bits are one run. -/
theorem whenReservedZero_run_accepts (w : Word) {k n : Nat} (hkn : k + n ≤ 48) (j : Instr) :
    AcceptsUnlessReserved w (runMask k n) (whenReservedZero w (w.extractLsb' k n == 0#n) j) :=
  whenReservedZero_accepts (beq_iff_eq.trans (and_runMask_eq_zero_iff w hkn).symm) j

theorem decodeQ_accepts (w : Word) (f : Chan → Byte → Bool → Instr) :
    AcceptsUnlessReserved w (runMask 13 27 ||| runMask 11 1) (decodeQ w f) := by
  refine whenReservedZero_accepts ?_ _
  rw [and_or_eq_zero_iff, and_runMask_eq_zero_iff w (by decide), and_runMask_one_eq_zero_iff w (by decide),
    Bool.and_eq_true, beq_iff_eq, Bool.not_eq_true']

theorem decodeH_accepts (w : Word) (f : Chan → Bool → Instr) :
    AcceptsUnlessReserved w (runMask 11 29 ||| runMask 1 7) (decodeH w f) := by
  refine whenReservedZero_accepts ?_ _
  rw [and_or_eq_zero_iff, and_runMask_eq_zero_iff w (by decide), and_runMask_eq_zero_iff w (by decide),
    Bool.and_eq_true, beq_iff_eq, beq_iff_eq]

/-- The row of `CNT.RD`, which also rejects an index beyond 4 (R82, R86). -/
theorem decodeI_eq (w : Word) (f : BitVec 3 → Instr) :
    decodeI w f =
      if w &&& runMask 3 37 = 0 then
        if (w.extractLsb' 0 3).toNat ≤ 4 then .ok (f (w.extractLsb' 0 3)) else .error .counterIndex
      else .error (reservedError w) := by
  simp only [decodeI, and_runMask_eq_zero_iff w (show 3 + 37 ≤ 48 by decide), beq_iff_eq]

/-- Every row accepts exactly the words without a reserved bit, that of `CNT.RD` among those with a legal index. -/
theorem rowDecode_accepts (w : Word) {i : Instr} (hidx : i.opcode = 0x08#8 → (w.extractLsb' 0 3).toNat ≤ 4) :
    AcceptsUnlessReserved w i.reservedMask (i.rowDecode w) := by
  cases i with
  | cntRd => exact ⟨.cntRd _, (decodeI_eq w .cntRd).trans (by rw [if_pos (hidx rfl)]; rfl)⟩
  | ienExit => exact whenReservedZero_run_accepts w (k := 1) (n := 39) (by decide) _
  | evfSet | evfClr | evfTst | rbufPush | rbufPeek | evConrx | evLink =>
    exact whenReservedZero_run_accepts w (k := 8) (n := 32) (by decide) _
  | mtdSetthr => exact whenReservedZero_run_accepts w (k := 35) (n := 5) (by decide) _
  | muxEnq => exact decodeQ_accepts w _
  | muxReg => exact decodeH_accepts w _
  | evMbrx => exact whenReservedZero_run_accepts w (k := 11) (n := 29) (by decide) _
  | ienEnter | ienOn | rbufPop | rbufAvail | rbufFlush | mtdRdgap | evBasetick | evHookdone | evGaptick | evEnqretry
  | evReset => exact whenReservedZero_run_accepts w (k := 0) (n := 40) (by decide) _

theorem decode_of_cntRd {w : Word} (hopc : opcodeOf w = 0x08#8) : decode w = decodeI w .cntRd :=
  decode_of_opcode (i := .cntRd 0) hopc

/-- One opcode has one format. -/
theorem reservedMask_of_cntRd {i : Instr} (hopc : i.opcode = 0x08#8) : i.reservedMask = runMask 3 37 := by
  cases i with
  | cntRd => rfl
  | _ => simp [Instr.opcode] at hopc

/-- A listed opcode with a reserved bit of its format set is rejected by that, whatever the index (R86). -/
theorem decode_of_reserved {w : Word} {i : Instr} (hopc : opcodeOf w = i.opcode) (hmask : w &&& i.reservedMask ≠ 0) :
    decode w = .error (reservedError w) := by
  by_cases hcnt : i.opcode = 0x08#8
  · rw [reservedMask_of_cntRd hcnt] at hmask
    rw [decode_of_cntRd (hopc.trans hcnt), decodeI_eq, if_neg hmask]
  · obtain ⟨j, hj⟩ := rowDecode_accepts w (i := i) fun h => absurd h hcnt
    rw [decode_of_opcode hopc, hj, if_neg hmask]

/-- Settles O4: the row of the opcode, if one lists it, then the reserved bits of its format, then the index of
`CNT.RD`, decide in this order. -/
theorem reservedEncodingsAreRejected : Obligations.ReservedEncodingsAreRejected := by
  refine ⟨fun w => decode_of_unlisted, fun w r hr hopc hmask => ?_, fun w hopc hzero hidx => ?_,
    fun w r hr hopc hzero hidx => ?_⟩
  · obtain ⟨i, hi, hm⟩ := exists_instr_of_mem_opcodeRows hr
    exact decode_of_reserved (hopc.trans hi.symm) (hm ▸ hmask)
  · have hrun : w &&& runMask 3 37 = 0 := hzero
    rw [decode_of_cntRd hopc, decodeI_eq, if_pos hrun, if_neg (by omega)]
  · obtain ⟨i, hi, hm⟩ := exists_instr_of_mem_opcodeRows hr
    have hrow : opcodeOf w = i.opcode := hopc.trans hi.symm
    obtain ⟨j, hj⟩ := rowDecode_accepts w (i := i) fun h => hidx (hrow.trans h)
    exact ⟨j, by rw [decode_of_opcode hrow, hj, if_pos (hm ▸ hzero)]⟩

end Sys2Proof

/-! PROOFS. The frame of every step: the parameters and the offered words stay, the record of outputs grows, and each
register is left by every step but its writers (spec/10_state.md R20, R24, R33; spec/30_encoding.md R84). -/

namespace Sys2Proof.Machine

section Frame

variable {i : Instr} {s t : State}

/-! ### What no step touches -/

theorem Effect.cfg_eq (h : Effect i s t) : t.cfg = s.cfg := by
  cases h <;> rfl

theorem Effect.stimulus_eq (h : Effect i s t) : t.stimulus = s.stimulus := by
  cases h <;> rfl

/-! ### What each register's writers are

Every lemma says: a step leaves the register, or it is one of the register's writers; reset apart. -/

theorem Effect.evfFlags_frame (h : Effect i s t) (hreset : i ≠ .evReset) :
    t.evfFlags = s.evfFlags ∨ ∃ m, i = .evfSet m ∨ i = .evfClr m := by
  cases h with
  | evfSet => exact .inr ⟨_, .inl rfl⟩
  | evfClr => exact .inr ⟨_, .inr rfl⟩
  | evReset => exact absurd rfl hreset
  | _ => exact .inl rfl

/-- An enqueue writes `IE` only by starting a wait, a poll only by ending one (R128). -/
theorem Effect.ie_frame (h : Effect i s t) (hreset : i ≠ .evReset) :
    t.ie = s.ie ∨ i = .ienEnter ∨ (∃ saved, i = .ienExit saved) ∨ i = .ienOn ∨
      (∃ ch b, i = .muxEnq ch b true ∧ s.txqRoom = false ∧ s.muxEnqw = none) ∨
      (i = .evEnqretry ∧ t.muxEnqw = none) := by
  cases h with
  | ienEnter => exact .inr (.inl rfl)
  | ienExit => exact .inr (.inr (.inl ⟨_, rfl⟩))
  | ienOn => exact .inr (.inr (.inr (.inl rfl)))
  | muxEnqWaits hfull hnone => exact .inr (.inr (.inr (.inr (.inl ⟨_, _, rfl, hfull, hnone⟩))))
  | pollStores => exact .inr (.inr (.inr (.inr (.inr ⟨rfl, rfl⟩))))
  | pollFails => exact .inr (.inr (.inr (.inr (.inr ⟨rfl, rfl⟩))))
  | evReset => exact absurd rfl hreset
  | _ => exact .inl rfl

theorem Effect.schOvr_frame (h : Effect i s t) (hreset : i ≠ .evReset) : t.schOvr = s.schOvr ∨ i = .evBasetick := by
  cases h with
  | baseTickOverruns => exact .inr rfl
  | evReset => exact absurd rfl hreset
  | _ => exact .inl rfl

theorem Effect.rbufErr_frame (h : Effect i s t) (hreset : i ≠ .evReset) :
    t.rbufErr = s.rbufErr ∨ (∃ b, i = .rbufPush b ∨ i = .evConrx b) ∨ i = .rbufFlush := by
  cases h with
  | rbufPush => exact .inr (.inl ⟨_, .inl rfl⟩)
  | evConrx => exact .inr (.inl ⟨_, .inr rfl⟩)
  | rbufFlush => exact .inr (.inr rfl)
  | evReset => exact absurd rfl hreset
  | _ => exact .inl rfl

theorem Effect.mtdCounters_frame (h : Effect i s t) (hreset : i ≠ .evReset) :
    (t.mtdRxcnt = s.mtdRxcnt ∧ t.mtdErrcnt = s.mtdErrcnt) ∨ ∃ data fe dor pe, i = .evMbrx data fe dor pe := by
  cases h with
  | evMbrx => exact .inr ⟨_, _, _, _, rfl⟩
  | evReset => exact absurd rfl hreset
  | _ => exact .inl ⟨rfl, rfl⟩

theorem Effect.muxErr_frame (h : Effect i s t) (hreset : i ≠ .evReset) :
    t.muxErr = s.muxErr ∨ (∃ rx, i = .evLink rx) ∨ (∃ ch b blk, i = .muxEnq ch b blk) ∨ i = .evEnqretry := by
  cases h with
  | evLink => exact .inr (.inl ⟨_, rfl⟩)
  | muxEnqFull => exact .inr (.inr (.inl ⟨_, _, _, rfl⟩))
  | pollFails => exact .inr (.inr (.inr rfl))
  | evReset => exact absurd rfl hreset
  | _ => exact .inl rfl

theorem Effect.rbufR_frame (h : Effect i s t) (hreset : i ≠ .evReset) :
    t.rbufR = s.rbufR ∨ i = .rbufPop ∨ i = .rbufFlush := by
  cases h with
  | rbufPop => exact .inr (.inl rfl)
  | rbufFlush => exact .inr (.inr rfl)
  | evReset => exact absurd rfl hreset
  | _ => exact .inl rfl

theorem Effect.rbufW_frame (h : Effect i s t) (hreset : i ≠ .evReset) :
    t.rbufW = s.rbufW ∨ (∃ b, i = .rbufPush b ∨ i = .evConrx b) ∨ i = .rbufFlush := by
  cases h with
  | rbufPush => exact .inr (.inl ⟨_, .inl rfl⟩)
  | evConrx => exact .inr (.inl ⟨_, .inr rfl⟩)
  | rbufFlush => exact .inr (.inr rfl)
  | evReset => exact absurd rfl hreset
  | _ => exact .inl rfl

/-- Only the two pushes write the storage of the receive buffer, as `rbuf_push` does. -/
theorem Effect.rbufMem_frame (h : Effect i s t) :
    t.rbufMem = s.rbufMem ∨ ∃ b, (i = .rbufPush b ∨ i = .evConrx b) ∧ t.rbufMem = (pushed b s).rbufMem := by
  cases h with
  | rbufPush => exact .inr ⟨_, .inl rfl, rfl⟩
  | evConrx => exact .inr ⟨_, .inr rfl, rfl⟩
  | _ => exact .inl rfl

theorem Effect.schTick_frame (h : Effect i s t) (hreset : i ≠ .evReset) :
    (t.schDiv = s.schDiv ∧ t.schTick = s.schTick) ∨ i = .evBasetick := by
  cases h with
  | baseTickCounts | baseTickOverruns | baseTickIdles | baseTickFires => exact .inr rfl
  | evReset => exact absurd rfl hreset
  | _ => exact .inl ⟨rfl, rfl⟩

theorem Effect.schGuard_frame (h : Effect i s t) (hreset : i ≠ .evReset) :
    t.schGuard = s.schGuard ∨ i = .evBasetick ∨ i = .evHookdone := by
  cases h with
  | baseTickFires => exact .inr (.inl rfl)
  | evHookdone => exact .inr (.inr rfl)
  | evReset => exact absurd rfl hreset
  | _ => exact .inl rfl

theorem Effect.mtdGap_frame (h : Effect i s t) (hreset : i ≠ .evReset) :
    t.mtdGap = s.mtdGap ∨ i = .evGaptick ∨ ∃ data fe dor pe, i = .evMbrx data fe dor pe := by
  cases h with
  | gapTickCounts => exact .inr (.inl rfl)
  | evMbrx => exact .inr (.inr ⟨_, _, _, _, rfl⟩)
  | evReset => exact absurd rfl hreset
  | _ => exact .inl rfl

theorem Effect.thresholds_frame (h : Effect i s t) (hreset : i ≠ .evReset) :
    (t.mtdT15 = s.mtdT15 ∧ t.mtdT35 = s.mtdT35 ∧ t.mtdPsc = s.mtdPsc) ∨
      ∃ t15 t35 psc, i = .mtdSetthr t15 t35 psc := by
  cases h with
  | mtdSetthr => exact .inr ⟨_, _, _, rfl⟩
  | evReset => exact absurd rfl hreset
  | _ => exact .inl ⟨rfl, rfl, rfl⟩

theorem Effect.link_frame (h : Effect i s t) (hreset : i ≠ .evReset) :
    (t.muxRpos = s.muxRpos ∧ t.muxTxlow = s.muxTxlow ∧ t.muxRxpend = s.muxRxpend) ∨ ∃ rx, i = .evLink rx := by
  cases h with
  | evLink => exact .inr ⟨_, rfl⟩
  | evReset => exact absurd rfl hreset
  | _ => exact .inl ⟨rfl, rfl, rfl⟩

theorem Effect.muxUsed_frame (h : Effect i s t) (hreset : i ≠ .evReset) :
    t.muxUsed = s.muxUsed ∨ (∃ ch b blk, i = .muxEnq ch b blk) ∨ i = .evEnqretry ∨ ∃ rx, i = .evLink rx := by
  cases h with
  | muxEnqStored => exact .inr (.inl ⟨_, _, _, rfl⟩)
  | pollStores => exact .inr (.inr (.inl rfl))
  | evLink => exact .inr (.inr (.inr ⟨_, rfl⟩))
  | evReset => exact absurd rfl hreset
  | _ => exact .inl rfl

theorem Effect.muxHen_frame (h : Effect i s t) (hreset : i ≠ .evReset) :
    t.muxHen = s.muxHen ∨ ∃ ch en, i = .muxReg ch en := by
  cases h with
  | muxReg => exact .inr ⟨_, _, rfl⟩
  | evReset => exact absurd rfl hreset
  | _ => exact .inl rfl

theorem Effect.muxEnqw_frame (h : Effect i s t) (hreset : i ≠ .evReset) :
    t.muxEnqw = s.muxEnqw ∨
      (∃ ch b, i = .muxEnq ch b true ∧ s.txqRoom = false ∧ s.muxEnqw = none) ∨ i = .evEnqretry := by
  cases h with
  | muxEnqWaits hfull hnone => exact .inr (.inl ⟨_, _, rfl, hfull, hnone⟩)
  | pollStores | pollFails | pollWaits => exact .inr (.inr rfl)
  | evReset => exact absurd rfl hreset
  | _ => exact .inl rfl

end Frame

/-- Settles O57: each register's frame lemma, read as "what a step changes, it writes". -/
theorem registersChangeOnlyByTheirWriters : Obligations.RegistersChangeOnlyByTheirWriters := by
  intro i s t hexec hreset
  have h := effect_of_exec hexec
  refine ⟨(h.evfFlags_frame hreset).resolve_left, fun hie => ?_, (h.schOvr_frame hreset).resolve_left,
    (h.rbufErr_frame hreset).resolve_left,
    fun hcnt => (h.mtdCounters_frame hreset).resolve_left fun ⟨hrx, herr⟩ => hcnt.elim (· hrx) (· herr),
    (h.muxErr_frame hreset).resolve_left, (h.rbufR_frame hreset).resolve_left, (h.rbufW_frame hreset).resolve_left,
    fun hmem => ?_, fun htick => (h.schTick_frame hreset).resolve_left fun ⟨hd, ht⟩ => htick.elim (· hd) (· ht),
    (h.schGuard_frame hreset).resolve_left, (h.mtdGap_frame hreset).resolve_left,
    fun hthr => (h.thresholds_frame hreset).resolve_left fun ⟨h15, h35, hpsc⟩ =>
      hthr.elim (· h15) (Or.elim · (· h35) (· hpsc)),
    fun htxq => ((exec_muxTxq hexec).resolve_left htxq).2,
    fun hlink => (h.link_frame hreset).resolve_left fun ⟨hrpos, hlow, hpend⟩ =>
      hlink.elim (· hrpos) (Or.elim · (· hlow) (· hpend)),
    (h.muxUsed_frame hreset).resolve_left, (h.muxHen_frame hreset).resolve_left, fun hwait => ?_⟩
  · obtain henter | hexit | hon | ⟨ch, b, hi, -⟩ | ⟨hpoll, -⟩ := (h.ie_frame hreset).resolve_left hie
    · exact .inl henter
    · exact .inr (.inl hexit)
    · exact .inr (.inr (.inl hon))
    · exact .inr (.inr (.inr (.inl ⟨ch, b, hi⟩)))
    · exact .inr (.inr (.inr (.inr hpoll)))
  · obtain ⟨b, hi, -⟩ := h.rbufMem_frame.resolve_left hmem
    exact ⟨b, hi⟩
  · exact ((h.muxEnqw_frame hreset).resolve_left hwait).imp_left fun ⟨ch, b, hi, _⟩ => ⟨ch, b, hi⟩

/-! ### The record of outputs -/

/-- A command that only answers is no event. -/
theorem Answer.not_isEvent {i : Instr} {s : State} {st : Status} {v : Half} (h : Answer i s st v) :
    isEvent i = false := by
  cases h <;> rfl

theorem Answer.not_isGated {i : Instr} {s : State} {st : Status} {v : Half} (h : Answer i s st v) :
    isGated i = false := by
  cases h <;> rfl

/-- A link event delivers one byte at most (R208). -/
theorem linkDelivered_cases (x : Byte) (s : State) :
    linkDelivered x s = [] ∨ ∃ p, s.muxRxpend = some p ∧ xferHigh x = false ∧ p.ch = xferCh x ∧
      s.henLoad (xferCh x) = true ∧ linkDelivered x s = [.chDeliver (xferCh x) (joinNibbles p.nib (xferNib x))] := by
  unfold linkDelivered
  cases hp : s.muxRxpend with
  | none => exact .inl rfl
  | some p =>
    by_cases hpair : xferHigh x = false ∧ p.ch = xferCh x ∧ s.henLoad (xferCh x) = true
    · obtain ⟨hlow, hch, hen⟩ := hpair
      exact .inr ⟨p, rfl, hlow, hch, hen, by simp [hlow, hch, hen]⟩
    · exact .inl (by simp [hpair])

/-- Which operation takes which output action (R9, R42). -/
def emits : Instr → Output → Bool
  | i, .rsp _ _ => !isEvent i
  | .rbufFlush, .conDrain => true
  | .mtdSetthr _ _ _, .pscSel _ => true
  | .evBasetick, .hookFire _ => true
  | .evMbrx _ _ _ _, .mbDeliver _ _ => true
  | .evLink _, .linkTx _ => true
  | .evLink _, .chDeliver _ _ => true
  | .evEnqretry, .enqResult _ => true
  | _, _ => false

/-- A step appends to the record: a command one response, an event none (R84); and only output actions of its own. -/
theorem Effect.outputs_grow {i : Instr} {s t : State} (h : Effect i s t) :
    ∃ os, t.outputs = s.outputs ++ os ∧ os.countP isRsp = (if isEvent i then 0 else 1) ∧
      ∀ o ∈ os, emits i o = true := by
  cases h with
  | answer hanswer => exact ⟨_, rfl, by rw [hanswer.not_isEvent]; rfl, by simp [emits, hanswer.not_isEvent]⟩
  | rbufFlush => exact ⟨[.conDrain, .rsp .ok 0], List.append_assoc _ _ _, rfl, by simp [emits, isEvent, agentOf]⟩
  | mtdSetthr => exact ⟨[.pscSel _, .rsp .ok 0], List.append_assoc _ _ _, rfl, by simp [emits, isEvent, agentOf]⟩
  | evLink =>
    refine ⟨_, rfl, ?_⟩
    obtain hnone | ⟨p, -, -, -, -, hone⟩ := linkDelivered_cases _ _
    · rw [hnone]; exact ⟨rfl, by simp [emits]⟩
    · rw [hone]; exact ⟨rfl, by simp [emits]⟩
  | baseTickCounts | baseTickOverruns | baseTickIdles | evHookdone | gapTickCounts | gapTickStops | evConrx
  | pollWaits | evReset => exact ⟨[], (List.append_nil _).symm, rfl, by simp⟩
  | _ => exact ⟨_, rfl, rfl, by simp [emits, isEvent, agentOf]⟩

/-- What a step added to the record stands at its end. -/
theorem Effect.outputs_eq {i : Instr} {s t : State} (h : Effect i s t) : t.outputs = s.outputs ++ newOutputs s t := by
  obtain ⟨os, hos, -⟩ := h.outputs_grow
  rw [newOutputs_eq hos, hos]

/-- Every output action of a step is one of its operation's (R42). -/
theorem Effect.emits_of_mem {i : Instr} {s t : State} (h : Effect i s t) {o : Output} (ho : o ∈ newOutputs s t) :
    emits i o = true := by
  obtain ⟨os, hos, -, hemits⟩ := h.outputs_grow
  exact hemits o (newOutputs_eq hos ▸ ho)

/-- Settles O56: the record, the responses, the parameters and the offered words of a step. -/
theorem commandsAnswerOnceEventsNever : Obligations.CommandsAnswerOnceEventsNever := by
  intro i s t hexec
  have h := effect_of_exec hexec
  obtain ⟨os, hos, hcount, -⟩ := h.outputs_grow
  exact ⟨h.outputs_eq, newOutputs_eq hos ▸ hcount, h.cfg_eq, h.stimulus_eq⟩

/-! ### Runs -/

/-- A run of a step and more is the step, then the rest. -/
theorem runInstrs_cons_next_iff {i : Instr} {is : List Instr} {s t : State} :
    runInstrs (i :: is) s = .next t ↔ ∃ u, Effect i s u ∧ runInstrs is u = .next t := by
  simp only [← exec_next_iff, runInstrs]
  cases exec i s <;> simp

/-- A step at the front of a run. -/
theorem runInstrs_cons_of_effect {i : Instr} {s u : State} (h : Effect i s u) (is : List Instr) :
    runInstrs (i :: is) s = runInstrs is u := by
  simp only [runInstrs, exec_of_effect h]

/-- A run of two parts is the first, then the second. -/
theorem runInstrs_append_next_iff {is js : List Instr} {s t : State} :
    runInstrs (is ++ js) s = .next t ↔ ∃ u, runInstrs is s = .next u ∧ runInstrs js u = .next t := by
  induction is generalizing s with
  | nil => simp [runInstrs]
  | cons i is ih =>
    simp only [List.cons_append, runInstrs_cons_next_iff, ih]
    constructor
    · rintro ⟨u, hi, v, his, hjs⟩
      exact ⟨v, ⟨u, hi, his⟩, hjs⟩
    · rintro ⟨v, ⟨u, hi, his⟩, hjs⟩
      exact ⟨u, hi, v, his, hjs⟩

/-- Counting an operation along a run, step by step. -/
theorem count_cons_eq_add (i j : Instr) (is : List Instr) : (i :: is).count j = [i].count j + is.count j :=
  List.count_append (l₁ := [i])

theorem count_singleton_of_ne {i j : Instr} (h : i ≠ j) : [i].count j = 0 :=
  List.count_eq_zero.2 (by simpa using h.symm)

/-- What every step leaves in a relation that is reflexive and transitive, every run does. -/
theorem run_induction {R : State → State → Prop} (hrefl : ∀ s, R s s) (htrans : ∀ s t u, R s t → R t u → R s u)
    {is : List Instr} {s t : State} (hstep : ∀ i ∈ is, ∀ s t, Effect i s t → R s t) (h : runInstrs is s = .next t) :
    R s t := by
  induction is generalizing s with
  | nil => cases h; exact hrefl _
  | cons i is ih =>
    obtain ⟨u, hi, hrest⟩ := runInstrs_cons_next_iff.1 h
    exact htrans s u t (hstep i (by simp) s u hi) (ih (fun j hj => hstep j (by simp [hj])) hrest)

/-- A run appends to the record. -/
theorem run_outputs_eq {is : List Instr} {s t : State} (h : runInstrs is s = .next t) :
    t.outputs = s.outputs ++ newOutputs s t := by
  have hgrow : ∃ os, t.outputs = s.outputs ++ os := by
    refine run_induction (R := fun s t => ∃ os, t.outputs = s.outputs ++ os) (fun s => ⟨[], by simp⟩) ?_
      (fun i _ s t hi => ⟨_, hi.outputs_eq⟩) h
    rintro s t u ⟨os, hos⟩ ⟨os', hos'⟩
    exact ⟨os ++ os', by rw [hos', hos, List.append_assoc]⟩
  obtain ⟨os, hos⟩ := hgrow
  rw [newOutputs_eq hos, hos]

/-- What a run adds to the record is what its first step adds, then what the rest does. -/
theorem newOutputs_cons {i : Instr} {is : List Instr} {s u t : State} (hi : Effect i s u)
    (hrest : runInstrs is u = .next t) : newOutputs s t = newOutputs s u ++ newOutputs u t := by
  refine newOutputs_eq ?_
  rw [run_outputs_eq hrest, hi.outputs_eq, List.append_assoc]

/-! ### `IE` -/

/-- Settles O15: the frame of `IE`, and gated events are accepted with `IE` = 1, of which they are no writers. -/
theorem otherStepsPreserveIe : Obligations.OtherStepsPreserveIe := by
  refine ⟨fun i s t hexec henter hexit hon hreset hnowait hpoll => ?_, fun i s t hexec hgated => ?_⟩
  · obtain hie | hi | ⟨saved, hi⟩ | hi | ⟨ch, b, hi, hfull, hnone⟩ | ⟨hi, hended⟩ :=
      (effect_of_exec hexec).ie_frame hreset
    · exact hie
    · exact absurd hi henter
    · exact absurd hi (hexit saved)
    · exact absurd hi hon
    · simpa [hfull, hnone] using hnowait ch b hi
    · simpa [hended] using hpoll hi
  · cases effect_of_exec hexec with
    | answer hanswer => exact absurd hgated (Bool.eq_false_iff.1 hanswer.not_isGated)
    | baseTickCounts hie | baseTickOverruns hie | baseTickIdles hie | baseTickFires hie | evMbrx hie | evConrx hie
    | evLink hie => exact ⟨hie, hie⟩
    | _ => exact absurd hgated Bool.false_ne_true

end Sys2Proof.Machine

/-! PROOFS. The invariant (spec/10_state.md R45) and enabledness (spec/60_exceptions.md R240 to R243): every step
keeps the invariant, and on a legal state every enabled step is taken. -/

namespace Sys2Proof.Machine

/-! ### The registers of the invariant -/

/-- A push keeps the receive buffer legal (R45, R61). -/
theorem Inv.pushed {s : State} (h : Inv s) (b : Byte) : Inv (pushed b s) := by
  refine { h with wLt := ?_, memCanonical := s.rbufMem.write_wf h.memCanonical _ _,
                  memInside := s.rbufMem.write_inside _ _ _ h.memInside h.wLt }
  show (if s.rbufFull then s.rbufW else BitVec.ofNat 8 (s.rbufNext s.rbufW)).toNat < s.cfg.rbufSize
  split
  · exact h.wLt
  · rw [s.rbufNext_toNat h.cfgLegal]
    exact s.rbufNext_lt h.cfgLegal _

/-- A link event keeps the queue's count legal (R45). -/
theorem Inv.linked {s : State} (h : Inv s) (x : Byte) : Inv (linked x s) := by
  refine { h with usedLe := ?_ }
  have hused := h.usedLe
  show (if TakesEntry s then s.muxUsed - 1 else s.muxUsed).toNat ≤ 8
  split
  · next htake => have hpos := htake.2; bv_omega
  · exact hused

/-- Storing an entry with room keeps the queue's count legal (R45). -/
theorem Inv.txqStore {s : State} (h : Inv s) (ch : Chan) (b : Byte) (hroom : s.txqRoom = true) :
    Inv (txqStore ch b s) := by
  refine { h with usedLe := ?_ }
  have hlt := s.txqRoom_iff.1 hroom
  rw [txqStore_muxUsed, State.muxUsed_add_one_toNat hlt]
  omega

/-- Setting flags below a width names no flag at or above it. -/
theorem evfSetBits_lt {flags m : BitVec 8} {w : Nat} (hflags : flags.toNat < 2 ^ w) (hm : m.toNat < 2 ^ w) :
    (evfSetBits flags m).toNat < 2 ^ w := by
  rw [evfSetBits, BitVec.toNat_or]
  exact Nat.or_lt_two_pow hflags hm

/-- Clearing flags adds none. -/
theorem evfClearBits_lt {flags m : BitVec 8} {w : Nat} (hflags : flags.toNat < 2 ^ w) :
    (evfClearBits flags m).toNat < 2 ^ w := by
  rw [evfClearBits, BitVec.toNat_and]
  exact Nat.and_le_left.trans_lt hflags

/-- The block after reset is legal (R281, R283). -/
theorem Inv.resetBlock {s : State} (h : Inv s) : Inv (resetBlock s) := by
  have hmax := gapMax_lt _ h.cfgLegal
  have hpos := gapMax_pos _ h.cfgLegal
  have htwo := h.cfgLegal.1
  have ht35 : (BitVec.ofNat 16 s.cfg.gapMax).toNat = s.cfg.gapMax := by
    rw [BitVec.toNat_ofNat]
    exact Nat.mod_eq_of_lt hmax
  exact {
    cfgLegal := h.cfgLegal
    rLt := by show 0 < s.cfg.rbufSize; omega
    wLt := by show 0 < s.cfg.rbufSize; omega
    divLe := Nat.zero_le _
    usedLe := Nat.zero_le _
    thresholds := by
      rw [BitVec.lt_def, resetBlock_mtdT35, ht35]
      exact hpos
    flagsFit := Nat.two_pow_pos _
    gapFits := Nat.zero_le _
    thresholdsFit := ht35.le
    pscFits := Nat.two_pow_pos _
    waitLegal := fun _ hw => by cases hw
    memCanonical := h.memCanonical
    memInside := h.memInside }

/-- Every step keeps the invariant (R45). -/
theorem Effect.keeps_inv {i : Instr} {s t : State} (h : Effect i s t) (hinv : Inv s) : Inv t := by
  cases h with
  | evfSet hfits => exact { hinv with flagsFit := evfSetBits_lt hinv.flagsFit hfits }
  | evfClr => exact { hinv with flagsFit := evfClearBits_lt hinv.flagsFit }
  | rbufPush => exact { hinv.pushed _ with }
  | evConrx => exact hinv.pushed _
  | rbufPop =>
    refine { hinv with rLt := ?_ }
    show (BitVec.ofNat 8 (s.rbufNext s.rbufR)).toNat < s.cfg.rbufSize
    rw [s.rbufNext_toNat hinv.cfgLegal]
    exact s.rbufNext_lt hinv.cfgLegal _
  | rbufFlush =>
    have hpos : 0 < s.cfg.rbufSize := by have := hinv.cfgLegal.1; omega
    exact { hinv with rLt := hpos, wLt := hpos }
  | mtdSetthr hfits hlt =>
    obtain ⟨-, h35, hpsc⟩ := hfits
    exact { hinv with thresholds := hlt, thresholdsFit := Nat.le_sub_one_of_lt h35, pscFits := hpsc }
  | @muxEnqStored ch b _ _ hroom => exact { hinv.txqStore ch b hroom with }
  | muxEnqWaits =>
    refine { hinv with waitLegal := fun w hw => ?_ }
    cases hw
    exact ⟨hinv.cfgLegal.2.2.1, le_rfl⟩
  | baseTickCounts hie hdiv =>
    refine { hinv with divLe := ?_ }
    show (s.schDiv + 1).toNat ≤ 4
    bv_omega
  | baseTickOverruns | baseTickIdles | baseTickFires => exact { hinv with divLe := Nat.zero_le _ }
  | gapTickCounts hgap =>
    refine { hinv with gapFits := ?_ }
    have hmax := gapMax_lt _ hinv.cfgLegal
    show (s.mtdGap + 1).toNat ≤ s.cfg.gapMax
    bv_omega
  | evMbrx => exact { hinv with gapFits := Nat.zero_le _ }
  | evLink => exact hinv.linked _
  | @pollStores _ w hwait hroom => exact { hinv.txqStore w.ch w.b hroom with waitLegal := fun _ hw => by cases hw }
  | pollFails => exact { hinv with waitLegal := fun _ hw => by cases hw }
  | @pollWaits _ w hwait hfull hleft =>
    have hw := hinv.waitLegal w hwait
    refine { hinv with waitLegal := fun w' hw' => ?_ }
    cases hw'
    show 1 ≤ w.left - 1 ∧ w.left - 1 ≤ s.cfg.enqRetryBudget
    omega
  | evReset => exact hinv.resetBlock
  | answer | ienEnter | ienExit | ienOn | muxEnqFull | muxReg | evHookdone | gapTickStops => exact { hinv with }

/-! ### Enabled steps are taken -/

/-- On a legal state an enabled step is taken (R240, R241). -/
theorem exists_effect {i : Instr} {s : State} (hinv : Inv s) (hen : enabled i s = true) : ∃ t, Effect i s t := by
  simp only [← exec_next_iff]
  cases i with
  | cntRd idx =>
    simp only [exec, execCntRd]
    cases counterOfIdx idx <;> exact ⟨_, rfl⟩
  | evfSet | evfClr | evfTst | mtdSetthr => exact ⟨_, rfl⟩
  | rbufPush b => exact ⟨_, exec_of_effect (.rbufPush hinv.wLt)⟩
  | evConrx b => exact ⟨_, exec_of_effect (.evConrx hen hinv.wLt)⟩
  | rbufPop =>
    by_cases hempty : s.rbufR = s.rbufW
    · exact ⟨_, exec_rbufPop_empty hempty⟩
    · exact ⟨_, exec_rbufPop_held hempty hinv.rLt⟩
  | rbufPeek off =>
    by_cases hrange : s.rbufHeld ≤ off.toNat
    · exact ⟨_, exec_rbufPeek_range hrange⟩
    · exact ⟨_, exec_rbufPeek_held hinv.cfgLegal hrange⟩
  | muxEnq ch b blk =>
    cases hroom : s.txqRoom with
    | true => exact ⟨_, exec_of_effect (.muxEnqStored hroom)⟩
    | false =>
      by_cases hfails : blk = false ∨ s.muxEnqw.isSome = true
      · exact ⟨_, exec_of_effect (.muxEnqFull hroom hfails)⟩
      · simp only [not_or, Bool.not_eq_false, Bool.not_eq_true, Option.isSome_eq_false_iff, Option.isNone_iff_eq_none]
          at hfails
        obtain ⟨rfl, hnone⟩ := hfails
        exact ⟨_, exec_of_effect (.muxEnqWaits hroom hnone)⟩
  | evBasetick => exact ⟨_, exec_evBasetick_enabled s hen⟩
  | evGaptick =>
    simp only [exec, execEvGaptick]
    split <;> exact ⟨_, rfl⟩
  | evMbrx data fe dor pe => exact ⟨_, exec_evMbrx_enabled data fe dor pe hen⟩
  | evLink x => exact ⟨_, exec_evLink_enabled x hen⟩
  | evEnqretry =>
    obtain ⟨w, hw⟩ := Option.isSome_iff_exists.1 hen
    exact ⟨_, exec_evEnqretry_waiting hw⟩
  | ienEnter | ienExit | ienOn | rbufAvail | rbufFlush | mtdRdgap | muxReg | evHookdone | evReset => exact ⟨_, rfl⟩

/-- A step that is not enabled is refused as that (R242). -/
theorem exec_of_not_enabled {i : Instr} {s : State} (hen : enabled i s = false) :
    exec i s = .refused .notEnabled := by
  cases i with
  | evBasetick => exact exec_evBasetick_masked s hen
  | evMbrx data fe dor pe =>
    exact acceptGated_masked (fun t => .next (mbReceive data (uartError fe dor pe) t)) s hen
  | evConrx b => exact acceptGated_masked (rbufPush b) s hen
  | evLink x => exact acceptGated_masked (fun t => .next (linkRx x (linkTx t))) s hen
  | evEnqretry =>
    have hnone : s.muxEnqw = none := Option.not_isSome_iff_eq_none.1 (Bool.eq_false_iff.1 hen)
    simp only [exec, execEvEnqretry, hnone]
  | _ => exact absurd hen (Bool.eq_false_iff.not.2 (not_not.2 rfl))

/-- Settles O55: an enabled step is taken, by the invariant; one not enabled is refused; and the table by operation. -/
theorem stepsAreTakenExactlyWhenEnabled : Obligations.StepsAreTakenExactlyWhenEnabled := by
  refine fun i s hinv => ⟨fun hen => ?_, exec_of_not_enabled, ?_⟩
  · obtain ⟨t, ht⟩ := exists_effect hinv hen
    exact ⟨t, exec_of_effect ht⟩
  · cases i with
    | evBasetick | evMbrx | evConrx | evLink => exact Iff.rfl
    | evEnqretry => exact Option.isSome_iff_ne_none
    | _ => exact iff_of_true rfl trivial

/-! ### Offered words -/

/-- Settles O5: a step takes the offered word from its port, and either port runs what a legal word decodes to. -/
theorem stepRunsTheDecodedInstruction : Obligations.StepRunsTheDecodedInstruction := by
  intro s w rest i hoffer hdecode
  simp only [step, nextWord, hoffer, takeWord, takeEvent, presentCommand, hdecode]
  cases isEventWord w <;> rfl

/-- An illegal word on the command port answers `REFUSED` (R86). -/
theorem presentCommand_of_error {w : Word} {e : DecodeError} (h : decode w = .error e) (s : State) :
    presentCommand w s = .next (s.respond .refused 0) := by
  simp only [presentCommand, h, ite_self]

/-- A step that takes an illegal command word answers `REFUSED` (R86). -/
theorem step_of_illegal_command {s : State} {w : Word} {rest : List Word} {e : DecodeError}
    (hoffer : s.stimulus = w :: rest) (hdecode : decode w = .error e) (hport : isEventWord w = false) :
    step s = .next ({ s with stimulus := rest }.respond .refused 0) := by
  simp only [step, nextWord, hoffer, takeWord, hport, Bool.false_eq_true, if_false, presentCommand_of_error hdecode]

/-- A step that takes an ill-formed event word is none (R86). -/
theorem step_of_illFormed_event {s : State} {w : Word} {rest : List Word} {e : DecodeError}
    (hoffer : s.stimulus = w :: rest) (hdecode : decode w = .error e) (hport : isEventWord w = true) :
    step s = .refused .illFormedEvent := by
  simp only [step, nextWord, hoffer, takeWord, hport, if_true, takeEvent, hdecode]

/-- The offered words are no part of the invariant. -/
theorem Inv.without_word {s : State} (h : Inv s) (rest : List Word) : Inv { s with stimulus := rest } :=
  { h with }

/-- Settles O6: by the port of the word; and the commands with operands limited by a parameter refuse beyond it. -/
theorem illegalWordsAnswerRefused : Obligations.IllegalWordsAnswerRefused := by
  refine ⟨fun s w rest e => step_of_illegal_command, fun s w rest e => step_of_illFormed_event, fun s w hport => ?_,
    fun s m i hi hwide => ?_, fun s t15 t35 psc hwide => ?_⟩
  · simp only [presentCommand, hport, if_true]
    rfl
  · obtain rfl | rfl | rfl := hi
    · exact exec_of_answer (.evfSetRefused hwide.not_gt)
    · exact exec_of_answer (.evfClrRefused hwide.not_gt)
    · exact exec_of_answer (.evfTstRefused hwide.not_gt)
  · exact exec_mtdSetthr_wide fun ⟨h15, h35, hpsc⟩ => by omega

/-- Settles O52: the values of the reset state, by their bounds. -/
theorem resetStateIsLegal : Obligations.ResetStateIsLegal where
  cfgLegal := by decide
  rLt := by decide
  wLt := by decide
  divLe := by decide
  usedLe := by decide
  thresholds := by decide
  flagsFit := by decide
  gapFits := by decide
  thresholdsFit := by decide
  pscFits := by decide
  waitLegal := fun _ hw => absurd hw (Option.some_ne_none _).symm
  memCanonical := ⟨.nil, List.forall_mem_nil _⟩
  memInside := List.forall_mem_nil _

/-- Settles O54: a word spells an operation, which is enabled and taken or is refused, or it spells none, on either
port; the invariant gives the step and is kept. -/
theorem everyWordHasItsOutcome : Obligations.EveryWordHasItsOutcome := by
  intro s w rest hinv hoffer
  have hrest := hinv.without_word rest
  cases hdecode : decode w with
  | ok i =>
    rw [stepRunsTheDecodedInstruction s w rest i hoffer hdecode]
    cases hen : enabled i { s with stimulus := rest }
    · exact .inr (.inl ⟨i, rfl, hen, exec_of_not_enabled hen⟩)
    · obtain ⟨t, ht⟩ := exists_effect hrest hen
      exact .inl ⟨t, exec_of_effect ht, ht.keeps_inv hrest⟩
  | error e =>
    cases hport : isEventWord w
    · exact .inl ⟨_, step_of_illegal_command hoffer hdecode hport, { hrest with }⟩
    · exact .inr (.inr ⟨rfl, ⟨e, rfl⟩, step_of_illFormed_event hoffer hdecode hport⟩)

/-- Settles O53: a step takes an offered word; that is a step of the relation, or an answer `REFUSED`. -/
theorem everyStepKeepsTheInvariant : Obligations.EveryStepKeepsTheInvariant := by
  intro s t hinv hstep
  cases hoffer : s.stimulus with
  | nil => simp [step, nextWord, hoffer] at hstep
  | cons w rest =>
    obtain ⟨t', ht', hinv'⟩ | ⟨i, -, -, hrefused⟩ | ⟨-, -, hrefused⟩ := everyWordHasItsOutcome s w rest hinv hoffer
    · cases ht'.symm.trans hstep
      exact hinv'
    · cases hrefused.symm.trans hstep
    · cases hrefused.symm.trans hstep

end Sys2Proof.Machine

/-! PROOFS. The saturating counters (spec/40_saturating_counters.md), the critical section
(spec/41_event_flags_critical_section.md section 2) and the commands that may be repeated (spec/20_memory.md R67). -/

namespace Sys2Proof.Machine

/-! ### The table of R111 -/

/-- A command that only answers counts nothing. -/
theorem Answer.not_countsNow {i : Instr} {s : State} {st : Status} {v : Half} (h : Answer i s st v) (c : CounterId) :
    countsNow i s c = false := by
  cases h <;> cases c <;> rfl

/-- A command that only answers is neither of the steps that zero a counter. -/
theorem Answer.not_zeroes {i : Instr} {s : State} {st : Status} {v : Half} (h : Answer i s st v) :
    i ≠ .evReset ∧ i ≠ .rbufFlush := by
  cases h <;> exact ⟨by simp, by simp⟩

/-- Settles O9: each step's counters beside the table's condition for it, counter by counter. -/
theorem countersCountExactlyAsTheTableSays : Obligations.CountersCountExactlyAsTheTableSays := by
  intro i s t c hexec
  cases effect_of_exec hexec with
  | answer hanswer =>
    obtain ⟨hreset, hflush⟩ := hanswer.not_zeroes
    simp only [hreset, hflush, hanswer.not_countsNow c, false_and, or_self, if_false, Bool.false_eq_true]
    cases c <;> rfl
  | evReset => cases c <;> simp [State.counter]
  | rbufFlush => cases c <;> simp [State.counter, countsNow]
  | muxEnqStored hroom => cases c <;> simp [State.counter, countsNow, hroom]
  | muxEnqFull hfull hfails => cases c <;> simp [State.counter, countsNow, hfull, hfails]
  | muxEnqWaits hfull hnone => cases c <;> simp [State.counter, countsNow, hfull, hnone]
  | baseTickCounts hie hdiv => cases c <;> simp [State.counter, countsNow, hdiv]
  | baseTickOverruns hie hdiv hguard => cases c <;> simp [State.counter, countsNow, hdiv, hguard]
  | baseTickIdles hie hdiv hguard => cases c <;> simp [State.counter, countsNow, hguard]
  | baseTickFires hie hdiv hguard => cases c <;> simp [State.counter, countsNow, hguard]
  | @evMbrx data fe dor pe =>
    cases hue : fe || dor || pe <;> cases c <;> simp [State.counter, countsNow, received, hue]
  | pollStores hwait hroom => cases c <;> simp [State.counter, countsNow, hroom]
  | pollFails hwait hfull hlast => cases c <;> simp [State.counter, countsNow, hwait, hfull, hlast]
  | pollWaits hwait hfull hleft => cases c <;> simp [State.counter, countsNow, hwait, hleft]
  | _ => cases c <;> rfl

/-- From one state to a later one the counter did not decrease, and did not move from its maximum (R113). -/
def CounterKept (c : CounterId) (s t : State) : Prop :=
  (s.counter c).value ≤ (t.counter c).value ∧
    ((s.counter c).value.toNat = (s.counter c).max → t.counter c = s.counter c)

theorem CounterKept.refl (c : CounterId) (s : State) : CounterKept c s s :=
  ⟨BitVec.le_refl _, fun _ => rfl⟩

theorem CounterKept.trans {c : CounterId} {s t u : State} (hst : CounterKept c s t) (htu : CounterKept c t u) :
    CounterKept c s u := by
  refine ⟨BitVec.le_trans hst.1 htu.1, fun hmax => ?_⟩
  have hsame := hst.2 hmax
  rw [← hsame] at hmax
  exact (htu.2 hmax).trans hsame

/-- A saturating increment does not decrease a counter, and keeps its maximum (R12, R113). -/
theorem Counter.inc_kept (c : Counter) : c.value ≤ c.inc.value ∧ (c.value.toNat = c.max → c.inc = c) := by
  obtain ⟨-, hinc⟩ | ⟨hlt, hinc⟩ := c.inc_cases
  · exact ⟨by rw [hinc]; exact BitVec.le_refl _, fun _ => hinc⟩
  · exact ⟨by rw [BitVec.le_def]; omega, fun hmax => absurd hmax hlt.ne⟩

/-- A step that does not zero the counter keeps it (R111, R113). -/
theorem Effect.counterKept {i : Instr} {s t : State} (h : Effect i s t) {c : CounterId} (hreset : i ≠ .evReset)
    (hflush : ¬ (i = .rbufFlush ∧ c = .rbufErr)) : CounterKept c s t := by
  have htable := countersCountExactlyAsTheTableSays i s t c (exec_of_effect h)
  rw [if_neg (not_or.2 ⟨hreset, hflush⟩)] at htable
  unfold CounterKept
  rw [htable]
  split
  · exact (s.counter c).inc_kept
  · exact CounterKept.refl c s

/-- Settles O10: each step of the run keeps the counter, by the table. -/
theorem countersNeverDecrease : Obligations.CountersNeverDecrease := by
  intro is s t c hreset hflush hrun
  refine run_induction (R := CounterKept c) (CounterKept.refl c) (fun _ _ _ => CounterKept.trans) ?_ hrun
  intro i hi s t h
  refine h.counterKept (ne_of_mem_of_not_mem hi hreset) ?_
  rintro ⟨rfl, rfl⟩
  exact hflush rfl hi

/-- Settles O8: each index's counter; no index beyond 4 selects one. -/
theorem cntRdAnswersOneCounter : Obligations.CntRdAnswersOneCounter := by
  refine ⟨fun s => ⟨rfl, rfl, rfl, rfl, rfl⟩, fun s idx hidx => ?_⟩
  have hnone : counterOfIdx idx = none := by
    unfold counterOfIdx
    repeat rw [if_neg (by rintro rfl; exact absurd hidx (by decide))]
  exact exec_of_answer (.cntRdRefused hnone)

/-! ### The critical section -/

/-- Settles O14: the three assignments; the answer of `IEN.ENTER` is `IE` as a number. -/
theorem ienCommandsAssignIe : Obligations.IenCommandsAssignIe :=
  fun _ _ => ⟨rfl, rfl, rfl⟩

/-- A step that BalancedRun admits leaves `IE` as it was (R128). -/
theorem Effect.ie_eq_of_plain {i : Instr} {s t : State} (h : Effect i s t)
    (hkeep : i ≠ .ienEnter ∧ (∀ saved, i ≠ .ienExit saved) ∧ i ≠ .ienOn ∧ i ≠ .evEnqretry ∧ i ≠ .evReset)
    (hwait : ∀ ch b, i = .muxEnq ch b true → s.txqRoom = true ∨ s.muxEnqw.isSome = true) : t.ie = s.ie := by
  obtain ⟨henter, hexit, hon, hpoll, hreset⟩ := hkeep
  exact otherStepsPreserveIe.1 i s t (exec_of_effect h) henter hexit hon hreset hwait fun hi => absurd hi hpoll

/-- A balanced run is a run. -/
theorem BalancedRun.run {s t : State} {is : List Instr} (h : BalancedRun s is t) : runInstrs is s = .next t := by
  induction h with
  | nil => rfl
  | plain s t i hkeep hwait hstep => simp only [runInstrs, hstep]
  | crit s t u v is henter hbody hexit ih =>
    refine runInstrs_cons_next_iff.2 ⟨t, effect_of_exec henter, runInstrs_append_next_iff.2 ⟨u, ih, ?_⟩⟩
    simp only [runInstrs, hexit]
  | append s t u is js h1 h2 ih1 ih2 => exact runInstrs_append_next_iff.2 ⟨t, ih1, ih2⟩

/-- A balanced run leaves `IE` as it was: a critical section puts back the value it saved (R129). -/
theorem BalancedRun.ie_eq {s t : State} {is : List Instr} (h : BalancedRun s is t) : t.ie = s.ie := by
  induction h with
  | nil => rfl
  | plain s t i hkeep hwait hstep => exact (effect_of_exec hstep).ie_eq_of_plain hkeep hwait
  | crit s t u v is henter hbody hexit ih => cases hexit; rfl
  | append s t u is js h1 h2 ih1 ih2 => exact ih2.trans ih1

/-- From `IE` = 0 every part of a balanced run leaves `IE` = 0 (R129). -/
theorem BalancedRun.ie_false_throughout {s t : State} {is : List Instr} (h : BalancedRun s is t) (hie : s.ie = false) :
    ∀ {is₁ is₂ : List Instr} {u : State}, is = is₁ ++ is₂ → runInstrs is₁ s = .next u → u.ie = false := by
  induction h with
  | nil s =>
    intro is₁ is₂ u his hrun
    obtain ⟨rfl, -⟩ := List.append_eq_nil_iff.1 his.symm
    cases hrun
    exact hie
  | plain s t i hkeep hwait hstep =>
    intro is₁ is₂ u his hrun
    obtain ⟨rfl, -⟩ | ⟨rfl, -⟩ := List.append_eq_singleton_iff.1 his.symm
    · cases hrun
      exact hie
    · cases ((BalancedRun.plain s t i hkeep hwait hstep).run.symm.trans hrun)
      exact ((effect_of_exec hstep).ie_eq_of_plain hkeep hwait).trans hie
  | crit s t u v is henter hbody hexit ih =>
    intro is₁ is₂ u' his hrun
    obtain rfl | ⟨is₁', rfl, his'⟩ := List.cons_eq_append_iff.1 his |>.imp_left And.left
    · cases hrun
      exact hie
    · have ht : t.ie = false := by cases henter; rfl
      obtain ⟨t', ht', hrun'⟩ := runInstrs_cons_next_iff.1 hrun
      cases henter.symm.trans (exec_of_effect ht')
      obtain ⟨js, rfl, hjs⟩ | ⟨js, rfl, -⟩ := List.append_eq_append_iff.1 his'
      · obtain ⟨rfl, -⟩ | ⟨rfl, -⟩ := List.append_eq_singleton_iff.1 hjs.symm
        · rw [List.append_nil] at hrun'
          exact ih ht (List.append_nil is).symm hrun'
        · have hcrit := BalancedRun.crit s t u v is henter hbody hexit
          cases hcrit.run.symm.trans hrun
          exact hcrit.ie_eq.trans hie
      · exact ih ht rfl hrun'
  | append s t u is js h1 h2 ih1 ih2 =>
    intro is₁ is₂ u' his hrun
    obtain ⟨ks, rfl, hks⟩ | ⟨ks, rfl, -⟩ := List.append_eq_append_iff.1 his
    · obtain ⟨t', ht', hrun'⟩ := runInstrs_append_next_iff.1 hrun
      cases h1.run.symm.trans ht'
      exact ih2 (h1.ie_eq.trans hie) hks hrun'
    · exact ih1 hie rfl hrun

/-- Settles O16: by induction on the nesting, for the end of the run and for its parts. -/
theorem criticalSectionsNest : Obligations.CriticalSectionsNest :=
  ⟨fun _ _ _ h => ⟨h.run, h.ie_eq⟩, fun _ _ _ h hie _ _ _ his hrun => h.ie_false_throughout hie his hrun⟩

/-! ### Commands that may be repeated -/

/-- A command that only answers changes nothing else. -/
theorem State.respond_outputs_restored (s : State) (st : Status) (v : Half) :
    { s.respond st v with outputs := s.outputs } = s :=
  rfl

theorem Counter.zeroed_zeroed (c : Counter) : c.zeroed.zeroed = c.zeroed := by
  cases c <;> rfl

/-- Settles O58: the read commands only answer; the others assign values that do not depend on what they assign. -/
theorem idempotentCommands : Obligations.IdempotentCommands := by
  refine ⟨fun i s t hexec hread => ?_, fun i s t hexec hwrite => ?_⟩
  · obtain ⟨m, rfl⟩ | rfl | ⟨off, rfl⟩ | ⟨idx, rfl⟩ | rfl := hread <;>
      · cases effect_of_exec hexec
        exact s.respond_outputs_restored _ _
  · obtain ⟨saved, rfl⟩ | rfl | rfl | ⟨t15, t35, psc, rfl⟩ | ⟨ch, en, rfl⟩ := hwrite
    · cases hexec
      exact ⟨_, rfl, rfl⟩
    · cases hexec
      exact ⟨_, rfl, rfl⟩
    · cases hexec
      refine ⟨_, rfl, ?_⟩
      simp [State.respond, State.emit, Counter.zeroed_zeroed]
    · cases effect_of_exec hexec with
      | answer hanswer =>
        cases hanswer with
        | mtdSetthrRefused hwide => exact ⟨_, exec_of_answer (.mtdSetthrRefused hwide), rfl⟩
        | mtdSetthrBadarg hfits hbad => exact ⟨_, exec_of_answer (.mtdSetthrBadarg hfits hbad), rfl⟩
      | mtdSetthr hfits hlt => exact ⟨_, exec_of_effect (.mtdSetthr hfits hlt), rfl⟩
    · cases hexec
      refine ⟨_, rfl, ?_⟩
      simp [State.respond, State.emit, State.henStore]

end Sys2Proof.Machine

/-! PROOFS. The receive buffer (spec/42_ring_buffer.md): pushes and flush, the storage frame, and the refinement of a
bounded first-in first-out queue (R140 to R148). -/

namespace Sys2Proof.Machine

/-! ### The pushes and the flush -/

theorem State.rbufFull_of_eq {s : State} (h : (s.rbufW.toNat + 1) % s.cfg.rbufSize = s.rbufR.toNat) :
    s.rbufFull = true :=
  beq_iff_eq.2 h

theorem State.rbufFull_of_ne {s : State} (h : (s.rbufW.toNat + 1) % s.cfg.rbufSize ≠ s.rbufR.toNat) :
    s.rbufFull = false :=
  beq_eq_false_iff_ne.2 h

/-- A push on a full buffer stores the sentinel and counts (R141, D10). -/
theorem pushed_of_full (b : Byte) {s : State} (hfull : s.rbufFull = true) :
    pushed b s = { s with rbufMem := s.rbufMem.write s.rbufW.toNat 0x00#8, rbufErr := s.rbufErr.inc } := by
  simp only [pushed, hfull, if_true]

/-- A push with room stores its byte and advances the write index (R141). -/
theorem pushed_of_room (b : Byte) {s : State} (hroom : s.rbufFull = false) :
    pushed b s = { s with
      rbufMem := s.rbufMem.write s.rbufW.toNat b, rbufW := BitVec.ofNat 8 (s.rbufNext s.rbufW) } := by
  simp only [pushed, hroom, Bool.false_eq_true, if_false]

/-- Settles O17: the two cases of `rbuf_push`, then the response. -/
theorem rbufPushStoresOrDrops : Obligations.RbufPushStoresOrDrops := by
  refine fun b s hw => ⟨fun hfull => ?_, fun hroom => ?_⟩
  · rw [exec_of_effect (.rbufPush hw), pushed_of_full b (State.rbufFull_of_eq hfull)]
    rfl
  · rw [exec_of_effect (.rbufPush hw), pushed_of_room b (State.rbufFull_of_ne hroom)]
    rfl

/-- Settles O18: the two cases of `rbuf_push`, and `IE` = 0. -/
theorem evConrxStoresOrDrops : Obligations.EvConrxStoresOrDrops := by
  refine ⟨fun d s hie hw => ⟨fun hfull => ?_, fun hroom => ?_⟩, fun d s hie => exec_of_not_enabled hie⟩
  · rw [exec_of_effect (.evConrx hie hw), pushed_of_full d (State.rbufFull_of_eq hfull)]
  · rw [exec_of_effect (.evConrx hie hw), pushed_of_room d (State.rbufFull_of_ne hroom)]
    rfl

/-- Settles O23: the flush, its two output actions one after the other. -/
theorem rbufFlushEmptiesTheBuffer : Obligations.RbufFlushEmptiesTheBuffer := by
  refine fun s => ⟨?_, s.rbufErr.zeroed_value, s.rbufErr.zeroed_max⟩
  rw [exec_of_effect .rbufFlush]
  simp [State.respond, State.emit]

/-! ### The storage frame -/

/-- A cell after a push: the byte or the sentinel in the write cell, every other cell as before (R61, R141). -/
theorem read_pushed {s : State} (hmem : s.rbufMem.wf) (b : Byte) (a : Nat) :
    (pushed b s).rbufMem.read a =
      if a = s.rbufW.toNat then (if s.rbufFull then 0x00#8 else b) else s.rbufMem.read a :=
  Memory.read_write s.rbufMem hmem _ _ a

/-- Settles O19: a step leaves the storage or writes it as a push of its byte does. -/
theorem onlyPushesWriteTheWriteCell : Obligations.OnlyPushesWriteTheWriteCell := by
  intro i s t hmem hreset hexec
  have h := effect_of_exec hexec
  refine ⟨fun a ha => ?_, fun b hb => ?_⟩
  · obtain hsame | ⟨b, hi, hpushed⟩ := h.rbufMem_frame
    · rw [hsame]
    · have hb : pushedByte i = some b := by obtain rfl | rfl := hi <;> rfl
      rw [hpushed, read_pushed hmem, if_neg (ha.resolve_right (by simp [hb]))]
  · have hpushed : t.rbufMem = (pushed b s).rbufMem := by
      cases h with
      | rbufPush => cases hb; rfl
      | evConrx => cases hb; rfl
      | answer hanswer => cases hanswer <;> cases hb
      | _ => cases hb
    rw [hpushed, read_pushed hmem, if_pos rfl]

/-! ### The bytes held -/

@[simp] theorem length_rbufBytes (s : State) : (rbufBytes s).length = s.rbufHeld := by
  simp [rbufBytes]

/-- The byte `k` places after the oldest (R140). -/
theorem getElem?_rbufBytes {s : State} {k : Nat} (hk : k < s.rbufHeld) :
    (rbufBytes s)[k]? = some (s.rbufMem.read ((s.rbufR.toNat + k) % s.cfg.rbufSize)) := by
  simp [rbufBytes, hk]

/-- Equal indices hold nothing. -/
theorem rbufBytes_of_empty {s : State} (hinv : Inv s) (hempty : s.rbufR = s.rbufW) : rbufBytes s = [] := by
  rw [← List.length_eq_zero_iff, length_rbufBytes]
  exact (s.rbufHeld_zero_iff hinv.rLt hinv.wLt).2 hempty

/-- A remainder of a number below twice the divisor. -/
theorem mod_eq_ite_of_lt_two_mul {x n : Nat} (h : x < 2 * n) : x % n = if x < n then x else x - n := by
  split
  · next hlt => exact Nat.mod_eq_of_lt hlt
  · next hge => rw [Nat.mod_eq_sub_mod (by omega), Nat.mod_eq_of_lt (by omega)]

/-- Going up from the read index, the write index is met after exactly the bytes held (R26). -/
theorem slot_eq_rbufW_iff {s : State} (hinv : Inv s) {k : Nat} (hk : k ≤ s.rbufHeld) :
    (s.rbufR.toNat + k) % s.cfg.rbufSize = s.rbufW.toNat ↔ k = s.rbufHeld := by
  have hr := hinv.rLt
  have hw := hinv.wLt
  have hlt := s.rbufHeld_lt hinv.cfgLegal
  rw [mod_eq_ite_of_lt_two_mul (by omega)]
  rw [s.rbufHeld_eq hw] at hk hlt ⊢
  split at hk <;> split <;> omega

/-- A push with room appends its byte (R141, R148). -/
theorem rbufBytes_pushed_of_room {s : State} (hinv : Inv s) (b : Byte) (hroom : s.rbufFull = false) :
    rbufBytes (pushed b s) = rbufBytes s ++ [b] := by
  have hheld : (pushed b s).rbufHeld = s.rbufHeld + 1 := by
    have hnotfull : s.rbufHeld ≠ s.cfg.rbufSize - 1 := fun heq =>
      Bool.false_ne_true (hroom.symm.trans ((s.rbufFull_iff hinv.rLt hinv.wLt hinv.cfgLegal.1).2 heq))
    have hnext : (pushed b s).rbufW.toNat = s.rbufNext s.rbufW := by
      rw [pushed_of_room b hroom]
      exact s.rbufNext_toNat hinv.cfgLegal _
    have hr : (pushed b s).rbufR = s.rbufR := rfl
    have hcfg : (pushed b s).cfg = s.cfg := rfl
    rw [(pushed b s).rbufHeld_eq (hinv.pushed b).wLt, hnext, hr, hcfg, s.rbufNext_eq _ hinv.wLt]
    rw [s.rbufHeld_eq hinv.wLt] at hnotfull ⊢
    have hrlt := hinv.rLt
    have hwlt := hinv.wLt
    split at hnotfull <;> split <;> split <;> omega
  have hread (k : Nat) (hk : k ≤ s.rbufHeld) :
      (pushed b s).rbufMem.read ((s.rbufR.toNat + k) % s.cfg.rbufSize) =
        if k = s.rbufHeld then b else s.rbufMem.read ((s.rbufR.toNat + k) % s.cfg.rbufSize) := by
    rw [read_pushed hinv.memCanonical, hroom]
    simp only [slot_eq_rbufW_iff hinv hk, Bool.false_eq_true, if_false]
  have hold : ∀ k ∈ List.range s.rbufHeld,
      (pushed b s).rbufMem.read ((s.rbufR.toNat + k) % s.cfg.rbufSize) =
        s.rbufMem.read ((s.rbufR.toNat + k) % s.cfg.rbufSize) := fun k hk => by
    have hlt := List.mem_range.1 hk
    rw [hread k hlt.le, if_neg hlt.ne]
  have hnew := (hread s.rbufHeld le_rfl).trans (if_pos rfl)
  have hbytes : rbufBytes (pushed b s) = (List.range (s.rbufHeld + 1)).map fun k =>
      (pushed b s).rbufMem.read ((s.rbufR.toNat + k) % s.cfg.rbufSize) := by
    rw [← hheld]
    rfl
  rw [hbytes, List.range_succ, List.map_append, List.map_congr_left hold, List.map_singleton, hnew]
  rfl

/-- A push on a full buffer leaves the bytes held: the sentinel goes into a free cell (R141, R148). -/
theorem rbufBytes_pushed_of_full {s : State} (hinv : Inv s) (b : Byte) (hfull : s.rbufFull = true) :
    rbufBytes (pushed b s) = rbufBytes s := by
  have hheld : (pushed b s).rbufHeld = s.rbufHeld := by
    rw [pushed_of_full b hfull]
    rfl
  have hold : ∀ k ∈ List.range s.rbufHeld,
      (pushed b s).rbufMem.read ((s.rbufR.toNat + k) % s.cfg.rbufSize) =
        s.rbufMem.read ((s.rbufR.toNat + k) % s.cfg.rbufSize) := fun k hk => by
    have hlt := List.mem_range.1 hk
    rw [read_pushed hinv.memCanonical, if_neg (mt (slot_eq_rbufW_iff hinv hlt.le).1 hlt.ne)]
  unfold rbufBytes
  rw [hheld]
  exact List.map_congr_left hold

/-- A push appends its byte where the queue has room (R148). -/
theorem rbufBytes_pushed {s : State} (hinv : Inv s) (b : Byte) :
    rbufBytes (pushed b s) = rbufBytes s ++ if s.rbufFull then [] else [b] := by
  cases hfull : s.rbufFull with
  | false => exact rbufBytes_pushed_of_room hinv b hfull
  | true => rw [rbufBytes_pushed_of_full hinv b hfull, if_pos rfl, List.append_nil]

/-- A queue of fewer than N-1 bytes is one that is not full (R26, R140). -/
theorem length_rbufBytes_lt_iff {s : State} (hinv : Inv s) :
    (rbufBytes s).length < s.cfg.rbufSize - 1 ↔ s.rbufFull = false := by
  have hiff := s.rbufFull_iff hinv.rLt hinv.wLt hinv.cfgLegal.1
  have hlt := s.rbufHeld_lt hinv.cfgLegal
  rw [length_rbufBytes, ← Bool.not_eq_true, hiff]
  omega

/-- The read index advanced by one slot, as a pop leaves it (R143). -/
theorem rbufBytes_eq_cons {s : State} (hinv : Inv s) (hheld : s.rbufR ≠ s.rbufW) :
    rbufBytes s = s.rbufMem.read s.rbufR.toNat ::
      rbufBytes { s with rbufR := BitVec.ofNat 8 (s.rbufNext s.rbufR) } := by
  generalize ht : ({ s with rbufR := BitVec.ofNat 8 (s.rbufNext s.rbufR) } : State) = t
  have hcfg : t.cfg = s.cfg := by rw [← ht]
  have hw : t.rbufW = s.rbufW := by rw [← ht]
  have hmem : t.rbufMem = s.rbufMem := by rw [← ht]
  have hnext : t.rbufR.toNat = s.rbufNext s.rbufR := by rw [← ht, s.rbufNext_toNat hinv.cfgLegal]
  have hrlt := hinv.rLt
  have hwlt := hinv.wLt
  have hcount : s.rbufHeld = t.rbufHeld + 1 := by
    have hne : s.rbufR.toNat ≠ s.rbufW.toNat := mt BitVec.eq_of_toNat_eq hheld
    rw [t.rbufHeld_eq (by rw [hw, hcfg]; exact hwlt), s.rbufHeld_eq hwlt, hnext, s.rbufNext_eq _ hrlt, hw, hcfg]
    split <;> split <;> split <;> omega
  have hslot (k : Nat) : (s.rbufR.toNat + (k + 1)) % s.cfg.rbufSize = (t.rbufR.toNat + k) % t.cfg.rbufSize := by
    rw [hnext, hcfg, State.rbufNext, Nat.mod_add_mod, Nat.add_comm k 1, Nat.add_assoc]
  have hfirst : (s.rbufR.toNat + 0) % s.cfg.rbufSize = s.rbufR.toNat := Nat.mod_eq_of_lt hrlt
  simp only [rbufBytes, hcount, List.range_succ_eq_map, List.map_cons, List.map_map, Function.comp_def,
    Nat.succ_eq_add_one, hslot, hfirst, hmem]

/-- Both indices at 0 hold nothing (R147, R281). -/
theorem rbufBytes_of_zero {s : State} (hr : s.rbufR = 0) (hw : s.rbufW = 0) : rbufBytes s = [] := by
  simp [rbufBytes, State.rbufHeld, hr, hw]

/-! ### The refinement -/

/-- A command that only answers leaves the queue: a pop that does so found it empty. -/
theorem Answer.fifoNext_eq {i : Instr} {s : State} {st : Status} {v : Half} (h : Answer i s st v) (hinv : Inv s) :
    fifoNext s.cfg.rbufSize i (rbufBytes s) = rbufBytes s := by
  cases h with
  | rbufPopEmpty hempty => rw [rbufBytes_of_empty hinv hempty]; rfl
  | _ => rfl

/-- Every step takes the bytes held as the queue takes them (R140, R148). -/
theorem Effect.rbufBytes_eq {i : Instr} {s t : State} (h : Effect i s t) (hinv : Inv s) :
    rbufBytes t = fifoNext s.cfg.rbufSize i (rbufBytes s) := by
  have hpush (b : Byte) : rbufBytes (pushed b s) =
      if (rbufBytes s).length < s.cfg.rbufSize - 1 then rbufBytes s ++ [b] else rbufBytes s := by
    rw [rbufBytes_pushed hinv]
    simp only [length_rbufBytes_lt_iff hinv]
    cases s.rbufFull <;> simp
  cases h with
  | rbufPush => exact hpush _
  | evConrx => exact hpush _
  | rbufPop hheld =>
    rw [rbufBytes_eq_cons hinv hheld]
    rfl
  | rbufFlush => exact rbufBytes_of_zero rfl rfl
  | evReset => exact rbufBytes_of_zero rfl rfl
  | answer hanswer => exact (hanswer.fifoNext_eq hinv).symm
  | _ => rfl

/-- Settles O24: the refinement step, the bound of the number held, and the answers of `RBUF.POP`, `RBUF.AVAIL` and
`RBUF.PEEK` as the queue's head, length and elements. -/
theorem receiveBufferRefinesBoundedFifo : Obligations.ReceiveBufferRefinesBoundedFifo := by
  intro i s t hinv hexec
  have h := effect_of_exec hexec
  refine ⟨h.rbufBytes_eq hinv, ?_, ?_, ?_, ?_⟩
  · rw [length_rbufBytes, ← h.cfg_eq]
    exact t.rbufHeld_lt (h.keeps_inv hinv).cfgLegal
  · rintro v q rfl hq
    have hheld : s.rbufR ≠ s.rbufW := fun hempty => by simp [rbufBytes_of_empty hinv hempty] at hq
    obtain ⟨rfl, -⟩ := List.cons.inj (hq.symm.trans (rbufBytes_eq_cons hinv hheld))
    cases (exec_rbufPop_held hheld hinv.rLt).symm.trans hexec
    rfl
  · rintro rfl
    cases hexec
    rw [length_rbufBytes]
    rfl
  · rintro off v rfl hv
    have hoff : off.toNat < s.rbufHeld := by
      rw [← length_rbufBytes]
      exact (List.getElem?_eq_some_iff.1 hv).1
    rw [getElem?_rbufBytes hoff] at hv
    cases hv
    cases (exec_rbufPeek_held hinv.cfgLegal hoff.not_ge).symm.trans hexec
    rfl

/-! ### First in, first out over a run -/

theorem setWidth_zext16 (b : Byte) : (zext16 b).setWidth 8 = b := by
  simp [zext16]

/-- A pop that answers `OK` answers a byte, the last output action of its step (R143). -/
theorem poppedByte_of_ok (s : State) (b : Byte) : poppedByte .rbufPop (s.respond .ok (zext16 b)) = [b] := by
  simp [poppedByte, setWidth_zext16]

/-- A command that only answers pops no byte. -/
theorem Answer.poppedByte_eq {i : Instr} {s : State} {st : Status} {v : Half} (h : Answer i s st v) :
    poppedByte i (s.respond st v) = [] := by
  cases h with
  | rbufPopEmpty => simp [poppedByte]
  | _ => rfl

/-- A command that only answers pushes no byte. -/
theorem Answer.pushedByte_eq {i : Instr} {s : State} {st : Status} {v : Half} (h : Answer i s st v) :
    pushedByte i = none := by
  cases h <;> rfl

/-- One step: the byte it accepts is queued behind those held, the byte it pops was in front (R148). -/
theorem Effect.fifo_step {i : Instr} {s t : State} (h : Effect i s t) (hinv : Inv s) (hflush : i ≠ .rbufFlush)
    (hreset : i ≠ .evReset) :
    rbufBytes s ++ (if s.rbufFull then [] else (pushedByte i).toList) = poppedByte i t ++ rbufBytes t := by
  have quiet {i : Instr} {t : State} (hpushed : pushedByte i = none) (hpopped : poppedByte i t = [])
      (hsame : rbufBytes t = rbufBytes s) :
      rbufBytes s ++ (if s.rbufFull then [] else (pushedByte i).toList) = poppedByte i t ++ rbufBytes t := by
    rw [hpushed, hpopped, hsame, Option.toList_none, ite_self, List.append_nil, List.nil_append]
  cases h with
  | rbufPush => exact (rbufBytes_pushed hinv _).symm
  | evConrx => exact (rbufBytes_pushed hinv _).symm
  | rbufPop hheld =>
    have hnone : pushedByte .rbufPop = none := rfl
    rw [poppedByte_of_ok, hnone, rbufBytes_eq_cons hinv hheld, Option.toList_none, ite_self, List.append_nil]
    rfl
  | rbufFlush => exact absurd rfl hflush
  | evReset => exact absurd rfl hreset
  | answer hanswer => exact quiet hanswer.pushedByte_eq hanswer.poppedByte_eq rfl
  | _ => exact quiet rfl rfl rfl

/-- Settles O25: step by step along the run, the invariant kept. -/
theorem poppedBytesArePushedBytesInOrder : Obligations.PoppedBytesArePushedBytesInOrder := by
  intro is
  induction is with
  | nil =>
    intro s t _ _ _ hrun
    cases hrun
    exact List.append_nil _
  | cons i is ih =>
    intro s t hinv hflush hreset hrun
    obtain ⟨u, hi, hrest⟩ := runInstrs_cons_next_iff.1 hrun
    have hstep := hi.fifo_step hinv (List.ne_of_not_mem_cons hflush).symm (List.ne_of_not_mem_cons hreset).symm
    have hih := ih u t (hi.keeps_inv hinv) (List.not_mem_of_not_mem_cons hflush)
      (List.not_mem_of_not_mem_cons hreset) hrest
    simp only [acceptedBytes, poppedBytes, exec_of_effect hi]
    rw [← List.append_assoc, hstep, List.append_assoc, hih, List.append_assoc]

end Sys2Proof.Machine

/-! PROOFS. The scheduler (spec/43_scheduler.md): the selection law, the hooks of a run in order, and one hook at a time
(R161 to R167). -/

namespace Sys2Proof.Machine

/-! ### The selection law -/

/-- A number is `2^k` modulo `2^(k+1)` exactly when bit `k` is its least set bit. -/
theorem mod_two_pow_succ_eq_iff (n k : Nat) :
    n % 2 ^ (k + 1) = 2 ^ k ↔ n.testBit k = true ∧ ∀ j < k, n.testBit j = false := by
  have hbits : n % 2 ^ (k + 1) = 2 ^ k ↔ ∀ j, (decide (j < k + 1) && n.testBit j) = decide (k = j) := by
    simp only [← Nat.testBit_mod_two_pow, ← Nat.testBit_two_pow]
    exact ⟨fun h j => by rw [h], fun h => Nat.eq_of_testBit_eq h⟩
  rw [hbits]
  constructor
  · intro h
    exact ⟨by simpa using h k, fun j hj => by simpa [hj.trans k.lt_succ_self, hj.ne'] using h j⟩
  · rintro ⟨hk, hlow⟩ j
    obtain hlt | rfl | hgt := Nat.lt_trichotomy j k
    · simp [hlow j hlt, hlt.ne']
    · simp [hk]
    · simp [hgt.ne, Nat.not_lt.2 hgt]

/-- Settles O29: the selected hook is the least set bit, which the remainder names; without a set bit there is none. -/
theorem hookSelectionLaw : Obligations.HookSelectionLaw := by
  refine ⟨fun t k => ?_, lsbIndex_eq_none_iff⟩
  rw [lsbIndex_eq_some_iff, mod_two_pow_succ_eq_iff]
  rfl

/-! ### One hook at a time -/

/-- Settles O28: the return is the guard's clearing. -/
theorem hookDoneClearsTheGuard : Obligations.HookDoneClearsTheGuard :=
  fun _ => rfl

/-- A hook is fired only by the base tick that finds the guard clear, sets it and does nothing else at the outputs. -/
theorem Effect.of_hookFire {i : Instr} {s t : State} {k : Fin 8} (h : Effect i s t)
    (hfire : .hookFire k ∈ newOutputs s t) :
    i = .evBasetick ∧ newOutputs s t = [.hookFire k] ∧ s.schGuard = false ∧ t.schGuard = true := by
  obtain rfl : i = .evBasetick := by
    have hemits := h.emits_of_mem hfire
    cases i with
    | evBasetick => rfl
    | _ => cases hemits
  cases h with
  | baseTickFires hie hdiv hguard hhook =>
    rw [newOutputs_eq rfl] at hfire ⊢
    obtain ⟨rfl⟩ := Output.hookFire.inj (List.mem_singleton.1 hfire)
    exact ⟨rfl, rfl, hguard, rfl⟩
  | answer hanswer => cases hanswer
  | baseTickCounts | baseTickOverruns | baseTickIdles => simp [newOutputs] at hfire

/-- With the guard set, only the hook's return and reset clear it (R165). -/
theorem Effect.schGuard_stays {i : Instr} {s t : State} (h : Effect i s t) (hguard : s.schGuard = true)
    (hdone : i ≠ .evHookdone) (hreset : i ≠ .evReset) : t.schGuard = true := by
  obtain hsame | rfl | rfl := h.schGuard_frame hreset
  · exact hsame.trans hguard
  · cases h with
    | baseTickFires => rfl
    | answer hanswer => cases hanswer
    | baseTickCounts | baseTickOverruns | baseTickIdles => exact hguard
  · exact absurd rfl hdone

/-- Settles O31: a fire finds the guard clear, so none happens while it is set. -/
theorem noHookPreemptsAHook : Obligations.NoHookPreemptsAHook := by
  refine ⟨fun i s t hexec hguard => ?_, fun i s t k hexec hfire => (effect_of_exec hexec).of_hookFire hfire⟩
  have h := effect_of_exec hexec
  refine ⟨fun hdone hreset => h.schGuard_stays hguard hdone hreset, fun k hfire => ?_⟩
  obtain ⟨-, -, hclear, -⟩ := h.of_hookFire hfire
  exact Bool.false_ne_true (hclear.symm.trans hguard)

/-! ### The hooks of a run -/

theorem hooksFrom_zero (tick : BitVec 8) : hooksFrom tick 0 = [] :=
  rfl

theorem hooksFrom_one (tick : BitVec 8) : hooksFrom tick 1 = (lsbIndex (tick + 1)).toList := by
  cases h : lsbIndex (tick + 1) with
  | none => exact List.filterMap_cons_none (l := []) h
  | some k => exact List.filterMap_cons_some (l := []) h

/-- The hooks of `m + n` scheduler ticks are those of the first `m`, then those of the next `n` (R163). -/
theorem hooksFrom_add (tick : BitVec 8) (m n : Nat) :
    hooksFrom tick (m + n) = hooksFrom tick m ++ hooksFrom (tick + BitVec.ofNat 8 m) n := by
  have hshift (j : Nat) : tick + BitVec.ofNat 8 (m + j + 1) = tick + BitVec.ofNat 8 m + BitVec.ofNat 8 (j + 1) := by
    rw [Nat.add_assoc, BitVec.ofNat_add, BitVec.add_assoc]
  simp only [hooksFrom, List.range_add, List.filterMap_append, List.filterMap_map, Function.comp_def, hshift]

theorem firedHooks_append (os ps : List Output) : firedHooks (os ++ ps) = firedHooks os ++ firedHooks ps :=
  List.filterMap_append

/-- A step other than a base tick fires no hook. -/
theorem Effect.firedHooks_eq_nil {i : Instr} {s t : State} (h : Effect i s t) (hi : i ≠ .evBasetick) :
    firedHooks (newOutputs s t) = [] := by
  refine List.filterMap_eq_nil_iff.2 fun o ho => ?_
  cases o with
  | hookFire k => exact absurd (h.of_hookFire ho).1 hi
  | _ => rfl

/-- From `s` to `t` the scheduler took `n` ticks, each one firing the hook of its counter value (R161, R163). -/
def TickedBy (n : Nat) (s t : State) : Prop :=
  firedHooks (newOutputs s t) = hooksFrom s.schTick n ∧ t.schTick = s.schTick + BitVec.ofNat 8 n

/-- One step without overrun: a base tick on the divider at 4 is a scheduler tick, every other step is none; the divider
counts base ticks modulo 5 (R161, R162). -/
theorem Effect.tickedBy {i : Instr} {s t : State} (h : Effect i s t) (hdiv : s.schDiv.toNat ≤ 4) (hreset : i ≠ .evReset)
    (hover : countsNow i s .schOvr = false) :
    TickedBy (schedTicks [i] s) s t ∧ t.schDiv.toNat = (s.schDiv.toNat + [i].count .evBasetick) % 5 := by
  by_cases hi : i = .evBasetick
  · subst hi
    have hlt : s.schDiv < 4#3 ↔ s.schDiv.toNat < 4 := BitVec.lt_def
    cases h with
    | answer hanswer => cases hanswer
    | baseTickCounts hie hcounts =>
      have hfour := hlt.1 hcounts
      have hticks : schedTicks [.evBasetick] s = 0 := Nat.div_eq_of_lt (Nat.succ_lt_succ hfour)
      rw [hticks]
      refine ⟨⟨by simp [newOutputs, firedHooks, hooksFrom_zero], by simp⟩, ?_⟩
      show (s.schDiv + 1).toNat = (s.schDiv.toNat + 1) % 5
      bv_omega
    | baseTickOverruns hie hend hguard => simp [countsNow, hend, hguard] at hover
    | baseTickIdles hie hend hguard hnone =>
      have hfour : s.schDiv.toNat = 4 := Nat.le_antisymm hdiv (Nat.not_lt.1 (mt hlt.2 hend))
      have hticks : schedTicks [.evBasetick] s = 1 := by simp [schedTicks, hfour]
      rw [hticks]
      exact ⟨⟨by rw [hooksFrom_one, hnone]; simp [newOutputs, firedHooks], rfl⟩, by simp [hfour]⟩
    | baseTickFires hie hend hguard hhook =>
      have hfour : s.schDiv.toNat = 4 := Nat.le_antisymm hdiv (Nat.not_lt.1 (mt hlt.2 hend))
      have hticks : schedTicks [.evBasetick] s = 1 := by simp [schedTicks, hfour]
      rw [hticks]
      exact ⟨⟨by rw [hooksFrom_one, hhook]; simp [newOutputs, firedHooks], rfl⟩, by simp [hfour]⟩
  · obtain ⟨hd, ht⟩ := (h.schTick_frame hreset).resolve_right hi
    have hcount : [i].count Instr.evBasetick = 0 := count_singleton_of_ne hi
    have hticks : schedTicks [i] s = 0 := by rw [schedTicks, hcount]; omega
    rw [hticks, hcount, hd]
    exact ⟨⟨by rw [h.firedHooks_eq_nil hi, hooksFrom_zero], by rw [ht]; simp⟩, by omega⟩

/-- Scheduler ticks of a run, step by step: the divider carries over (R161). -/
theorem schedTicks_cons {i : Instr} {is : List Instr} {s u : State}
    (hdiv : u.schDiv.toNat = (s.schDiv.toNat + [i].count .evBasetick) % 5) :
    schedTicks (i :: is) s = schedTicks [i] s + schedTicks is u := by
  have hcount := count_cons_eq_add i .evBasetick is
  simp only [schedTicks, hdiv, hcount]
  omega

/-- A run without overruns ticks by its scheduler ticks (R161, R163). -/
theorem run_tickedBy {is : List Instr} {s t : State} (hdiv : s.schDiv.toNat ≤ 4) (hreset : .evReset ∉ is)
    (hrun : runInstrs is s = .next t) (hover : overruns is s = 0) :
    TickedBy (schedTicks is s) s t ∧ t.schDiv.toNat = (s.schDiv.toNat + is.count .evBasetick) % 5 := by
  induction is generalizing s with
  | nil =>
    cases hrun
    have hticks : schedTicks [] t = 0 := by simp [schedTicks]; omega
    rw [hticks]
    exact ⟨⟨by simp [newOutputs, firedHooks, hooksFrom_zero], by simp⟩, by simp; omega⟩
  | cons i is ih =>
    obtain ⟨u, hi, hrest⟩ := runInstrs_cons_next_iff.1 hrun
    simp only [overruns, exec_of_effect hi, Nat.add_eq_zero_iff] at hover
    obtain ⟨hnow, hlater⟩ := hover
    have hnow : countsNow i s .schOvr = false := by simpa using hnow
    obtain ⟨⟨hfired, htick⟩, hd⟩ := hi.tickedBy hdiv (List.ne_of_not_mem_cons hreset).symm hnow
    obtain ⟨⟨hfired', htick'⟩, hd'⟩ := ih (by omega) (List.not_mem_of_not_mem_cons hreset) hrest hlater
    refine ⟨⟨?_, ?_⟩, ?_⟩
    · rw [newOutputs_cons hi hrest, firedHooks_append, hfired, hfired', htick, schedTicks_cons (is := is) hd,
        hooksFrom_add]
    · rw [htick', htick, schedTicks_cons (is := is) hd, BitVec.ofNat_add, BitVec.add_assoc]
    · have hcount := count_cons_eq_add i .evBasetick is
      rw [hd', hd, hcount]
      omega

/-! ### Rounds -/

/-- Base ticks below the divider's end only count (R162). -/
theorem run_baseTicks_below {s : State} (hie : s.ie = true) (is : List Instr) (k d : Nat) (hk : d + k ≤ 4) :
    runInstrs (List.replicate k .evBasetick ++ is) { s with schDiv := BitVec.ofNat 3 d } =
      runInstrs is { s with schDiv := BitVec.ofNat 3 (d + k) } := by
  induction k generalizing d with
  | zero => rfl
  | succ k ih =>
    have hlt : BitVec.ofNat 3 d < 4#3 := by bv_omega
    have hstep : Effect .evBasetick { s with schDiv := BitVec.ofNat 3 d }
        { s with schDiv := BitVec.ofNat 3 (d + 1) } := by
      rw [BitVec.ofNat_add]
      exact .baseTickCounts hie hlt
    rw [List.replicate_succ, List.cons_append, runInstrs_cons_of_effect hstep, ih (d + 1) (by omega),
      Nat.add_right_comm, Nat.add_assoc]

/-- One round: the hook of the next counter value, if it selects one, fires and returns (R162, R164). -/
theorem run_schedRound {s : State} (hie : s.ie = true) (hdiv : s.schDiv = 0) (hguard : s.schGuard = false)
    (is : List Instr) :
    runInstrs (schedRound ++ is) s = runInstrs is { s with
      schTick := s.schTick + 1, outputs := s.outputs ++ (hooksFrom s.schTick 1).map .hookFire } := by
  have hsplit : schedRound ++ is = List.replicate 4 .evBasetick ++ (.evBasetick :: .evHookdone :: is) := rfl
  have hstart : s = { s with schDiv := BitVec.ofNat 3 0 } := by
    rw [show BitVec.ofNat 3 0 = s.schDiv from hdiv.symm]
  have hend : ¬ (4#3 : BitVec 3) < 4#3 := by decide
  rw [hsplit, hooksFrom_one]
  conv_lhs => rw [hstart]
  rw [run_baseTicks_below hie _ 4 0 (by decide)]
  cases hhook : lsbIndex (s.schTick + 1) with
  | none =>
    rw [runInstrs_cons_of_effect (.baseTickIdles (s := { s with schDiv := 4#3 }) hie hend hguard hhook),
      runInstrs_cons_of_effect .evHookdone]
    simp [hdiv, hguard]
  | some k =>
    rw [runInstrs_cons_of_effect (.baseTickFires (s := { s with schDiv := 4#3 }) hie hend hguard hhook),
      runInstrs_cons_of_effect .evHookdone]
    simp [hdiv, hguard]

/-- Settles O30: the hooks of a run by induction along it; rounds one after the other. -/
theorem hooksFireStrictlyByTheCounter : Obligations.HooksFireStrictlyByTheCounter := by
  refine ⟨fun is s t hdiv hreset hrun hover => ?_, fun n => ?_⟩
  · obtain ⟨⟨hfired, htick⟩, hd⟩ := run_tickedBy hdiv hreset hrun hover
    exact ⟨hfired, htick, hd⟩
  · induction n with
    | zero => intro s hie hdiv hguard; simp [runInstrs, hooksFrom_zero]
    | succ n ih =>
      intro s hie hdiv hguard
      rw [List.replicate_succ, List.flatten_cons, run_schedRound hie hdiv hguard]
      refine (ih { s with
        schTick := s.schTick + 1
        outputs := s.outputs ++ (hooksFrom s.schTick 1).map .hookFire } hie hdiv hguard).trans ?_
      rw [Nat.add_comm n 1, hooksFrom_add, List.map_append, ← List.append_assoc, BitVec.ofNat_add, ← BitVec.add_assoc]
      rfl

end Sys2Proof.Machine

/-! PROOFS. The Modbus timing detector (spec/44_modbus_timing_detector.md): thresholds, gap timer and the delivered byte
(R181 to R188). -/

namespace Sys2Proof.Machine

/-! ### Thresholds -/

/-- Settles O33: the operands fit, so the rule compares the thresholds. -/
theorem setthrWritesAllOrNothing : Obligations.SetthrWritesAllOrNothing := by
  refine fun t15 t35 psc s h15 h35 hpsc => ⟨fun hlt => ?_, fun hbad => ?_⟩
  · rw [exec_of_effect (.mtdSetthr ⟨h15, h35, hpsc⟩ hlt)]
    simp [State.respond, State.emit]
  · exact exec_of_answer (.mtdSetthrBadarg ⟨h15, h35, hpsc⟩ hbad)

/-- Settles O34: the answer is the timer. -/
theorem rdgapAnswersTheTimer : Obligations.RdgapAnswersTheTimer :=
  fun _ => rfl

/-- Settles O39: both floors fit 16 bits up to `tpb` = 1702, and the lower is the smaller from `tpb` = 1 on. -/
theorem setbaudPairIsAccepted : Obligations.SetbaudPairIsAccepted := by
  intro tpb psc hlow hhigh
  have h15 : (BitVec.ofNat 16 (threshold15 tpb)).toNat = 33 * tpb / 2 := by
    rw [BitVec.toNat_ofNat, threshold15, Nat.mod_eq_of_lt (by omega)]
  have h35 : (BitVec.ofNat 16 (threshold35 tpb)).toNat = 77 * tpb / 2 := by
    rw [BitVec.toNat_ofNat, threshold35, Nat.mod_eq_of_lt (by omega)]
  have hlt : 33 * tpb / 2 < 77 * tpb / 2 := by omega
  refine ⟨_, _, if_pos ⟨hlow, hhigh⟩, h15, h35, fun s hfits hpsc => ?_⟩
  rw [← h15, ← h35] at hlt
  exact (setthrWritesAllOrNothing _ _ _ s (hlt.trans hfits) hfits hpsc).1 hlt

/-! ### The gap timer -/

/-- A gap tick adds one up to the timer's maximum (R181, D15). -/
theorem exec_evGaptick_eq {s : State} (hgap : s.mtdGap.toNat ≤ s.cfg.gapMax) :
    exec .evGaptick s = .next { s with mtdGap := BitVec.ofNat 16 (min (s.mtdGap.toNat + 1) s.cfg.gapMax) } := by
  by_cases hlt : s.mtdGap.toNat < s.cfg.gapMax
  · have hnext : s.mtdGap + 1 = BitVec.ofNat 16 (min (s.mtdGap.toNat + 1) s.cfg.gapMax) := by
      rw [Nat.min_eq_left hlt]
      bv_omega
    rw [exec_of_effect (.gapTickCounts hlt), hnext]
  · have hsame : s.mtdGap = BitVec.ofNat 16 (min (s.mtdGap.toNat + 1) s.cfg.gapMax) := by
      rw [Nat.min_eq_right (by omega), ← Nat.le_antisymm hgap (Nat.not_lt.1 hlt), BitVec.ofNat_toNat,
        BitVec.setWidth_eq]
    rw [exec_of_effect (.gapTickStops hlt), ← hsame]

/-- Settles O35: for `GAP_W` = 16 every timer is below the maximum or at it, for a narrower one by the premise. -/
theorem gapTickCountsAndStops : Obligations.GapTickCountsAndStops := by
  refine ⟨fun s hgapW => ?_, fun s _ hgap => ?_⟩
  · have hmax : s.cfg.gapMax = 0xFFFF := by rw [Config.gapMax, hgapW]; rfl
    rw [exec_evGaptick_eq (by omega), hmax]
  · exact exec_evGaptick_eq (Nat.le_sub_one_of_lt hgap)

/-- One step between two received bytes counts itself if it is a gap tick (R188). -/
theorem Effect.mtdGap_eq {i : Instr} {s t : State} (h : Effect i s t) (hcfg : s.cfg.wf)
    (hgap : s.mtdGap.toNat ≤ s.cfg.gapMax) (hbyte : ∀ data fe dor pe, i ≠ .evMbrx data fe dor pe)
    (hreset : i ≠ .evReset) : t.mtdGap.toNat = min (s.mtdGap.toNat + [i].count .evGaptick) s.cfg.gapMax := by
  by_cases hi : i = .evGaptick
  · subst hi
    have hmax := gapMax_lt _ hcfg
    cases (exec_evGaptick_eq hgap).symm.trans (exec_of_effect h)
    show (BitVec.ofNat 16 _).toNat = min (s.mtdGap.toNat + 1) s.cfg.gapMax
    rw [BitVec.toNat_ofNat, Nat.mod_eq_of_lt (by omega)]
  · have hcount : [i].count Instr.evGaptick = 0 := count_singleton_of_ne hi
    obtain hsame | hi' | ⟨data, fe, dor, pe, hi'⟩ := h.mtdGap_frame hreset
    · rw [hsame, hcount, Nat.add_zero, Nat.min_eq_left hgap]
    · exact absurd hi' hi
    · exact absurd hi' (hbyte data fe dor pe)

/-- Settles O38: by induction along the run, a timer capped once more being capped. -/
theorem gapTimerIsTheCappedTickCount : Obligations.GapTimerIsTheCappedTickCount := by
  intro is
  induction is with
  | nil =>
    intro s t _ hgap _ _ hrun
    cases hrun
    rw [List.count_nil, Nat.add_zero, Nat.min_eq_left (Nat.le_sub_one_of_lt hgap)]
  | cons i is ih =>
    intro s t hcfg hgap hbyte hreset hrun
    obtain ⟨u, hi, hrest⟩ := runInstrs_cons_next_iff.1 hrun
    have hstep := hi.mtdGap_eq hcfg (Nat.le_sub_one_of_lt hgap)
      (fun data fe dor pe => (List.ne_of_not_mem_cons (hbyte data fe dor pe)).symm)
      (List.ne_of_not_mem_cons hreset).symm
    have hpos := Nat.two_pow_pos s.cfg.gapW
    have hcount := count_cons_eq_add i .evGaptick is
    unfold Config.gapMax at hstep
    rw [ih u t (hi.cfg_eq ▸ hcfg) (by rw [hi.cfg_eq]; omega)
      (fun data fe dor pe => List.not_mem_of_not_mem_cons (hbyte data fe dor pe))
      (List.not_mem_of_not_mem_cons hreset) hrest, hstep, hi.cfg_eq, hcount]
    omega

/-! ### The delivered byte -/

/-- The status conditions of a gap, as comparisons of numbers (R182, R184). -/
theorem mbStatusOf_classify (g t15 t35 : Half) (ue : Bool) :
    mbStatusOf (classify g t15 t35) ue = {
      uartError := ue
      errFrame := decide (g.toNat ≤ t35.toNat ∧ t15.toNat < g.toNat)
      newFrame := decide (t35.toNat < g.toNat) } := by
  have herr : classify g t15 t35 = .errorFrame ↔ g.toNat ≤ t35.toNat ∧ t15.toNat < g.toNat := by
    rw [classify_eq_errorFrame_iff, BitVec.lt_def, BitVec.lt_def, Nat.not_lt, and_comm]
  have hnew : classify g t15 t35 = .newFrame ↔ t35.toNat < g.toNat := by
    rw [classify_eq_newFrame_iff, BitVec.lt_def]
  simp only [mbStatusOf, ← herr, ← hnew, beq_eq_decide]

/-- Settles O36: the reception with `IE` = 1, its status in numbers; with `IE` = 0 the event is not enabled. -/
theorem mbrxDeliversTheClassifiedByte : Obligations.MbrxDeliversTheClassifiedByte := by
  refine ⟨fun data fe dor pe s hie => ?_, fun data fe dor pe s hie => exec_of_not_enabled hie⟩
  rw [exec_of_effect (.evMbrx hie), received, mbStatusOf_classify]

/-- Settles O37: the three bits, and that no class sets both frame conditions. -/
theorem statusCodeLayout : Obligations.StatusCodeLayout := by
  refine ⟨fun st => ?_, fun c ue => ?_⟩
  · obtain ⟨u, e, n⟩ := st
    cases u <;> cases e <;> cases n <;> decide
  · cases c <;> cases ue <;> decide

end Sys2Proof.Machine

/-! PROOFS. The transport's commands, wire format and waiting enqueue (spec/45_mux_transport.md sections 1 and 2), and
the reset (spec/70_reset_and_hazards.md): R201 to R205, R209, R281. -/

namespace Sys2Proof.Machine

/-! ### The wire format -/

/-- Two bit strings side by side, as a number. -/
theorem toNat_append_eq_add {m n : Nat} (x : BitVec m) (y : BitVec n) :
    (x ++ y).toNat = x.toNat * 2 ^ n + y.toNat := by
  rw [BitVec.toNat_append, ← Nat.shiftLeft_add_eq_or_of_lt y.isLt, Nat.shiftLeft_eq]

/-- The fields of a transfer read back (R201). -/
theorem xfer_fields (ch : Chan) (p : Bool) (n : Nibble) :
    xferCh (ch ++ BitVec.ofBool p ++ n : BitVec 8) = ch ∧ xferHigh (ch ++ BitVec.ofBool p ++ n : BitVec 8) = p ∧
      xferNib (ch ++ BitVec.ofBool p ++ n : BitVec 8) = n := by
  generalize hx : (ch ++ BitVec.ofBool p ++ n : BitVec 8) = x
  have hwhole : x.extractLsb' 0 (4 + 4) = ch ++ BitVec.ofBool p ++ n :=
    (BitVec.extractLsb'_eq_self (x := x)).trans hx.symm
  obtain ⟨hhigh, hnib⟩ := (extractLsb'_eq_append_iff x 0 4 4 _ _).1 hwhole
  obtain ⟨hch, hmark⟩ := (extractLsb'_eq_append_iff x 4 3 1 _ _).1 hhigh
  exact ⟨hch, (extractLsb'_one_eq_ofBool_iff x 4 p).1 hmark, hnib⟩

theorem hiXfer_fields (ch : Chan) (b : Byte) : xferCh (hiXfer ch b) = ch ∧ xferHigh (hiXfer ch b) = true ∧
    xferNib (hiXfer ch b) = b.extractLsb' 4 4 :=
  xfer_fields ch true _

theorem loXfer_fields (ch : Chan) (b : Byte) : xferCh (loXfer ch b) = ch ∧ xferHigh (loXfer ch b) = false ∧
    xferNib (loXfer ch b) = b.extractLsb' 0 4 :=
  xfer_fields ch false _

/-- The two halves of a byte put together (R202). -/
theorem joinNibbles_halves (ch : Chan) (b : Byte) :
    joinNibbles (xferNib (hiXfer ch b)) (xferNib (loXfer ch b)) = b := by
  obtain ⟨-, -, hhigh⟩ := hiXfer_fields ch b
  obtain ⟨-, -, hlow⟩ := loXfer_fields ch b
  rw [hhigh, hlow]
  exact (BitVec.extractLsb'_append_extractLsb'_eq_extractLsb' (x := b) (rfl : 4 = 0 + 4)).trans
    BitVec.extractLsb'_eq_self

theorem toNat_hiXfer (ch : Chan) (b : Byte) : (hiXfer ch b).toNat = ch.toNat * 32 + 16 + b.toNat / 16 := by
  have h := b.isLt
  rw [hiXfer, toNat_append_eq_add, toNat_append_eq_add, BitVec.extractLsb'_toNat, Nat.shiftRight_eq_div_pow]
  simp only [BitVec.toNat_ofNat]
  omega

theorem toNat_loXfer (ch : Chan) (b : Byte) : (loXfer ch b).toNat = ch.toNat * 32 + b.toNat % 16 := by
  rw [loXfer, toNat_append_eq_add, toNat_append_eq_add, BitVec.extractLsb'_toNat, Nat.shiftRight_zero]
  simp only [BitVec.toNat_ofNat]
  omega

/-- The assembler's arithmetic for a high transfer (R89). -/
theorem linkpair_high (ch : Chan) (b : Byte) :
    (ch.setWidth 8 <<< 5) ||| 0x10#8 ||| (b >>> 4) = hiXfer ch b := by
  refine BitVec.eq_of_getLsbD_eq fun j hj => ?_
  simp only [hiXfer, BitVec.getLsbD_or, BitVec.getLsbD_shiftLeft, BitVec.getLsbD_setWidth, BitVec.getLsbD_ushiftRight,
    BitVec.getLsbD_append, BitVec.getLsbD_extractLsb']
  interval_cases j <;> simp

/-- The assembler's arithmetic for a low transfer (R89). -/
theorem linkpair_low (ch : Chan) (b : Byte) : (ch.setWidth 8 <<< 5) ||| (b &&& 0x0F#8) = loXfer ch b := by
  refine BitVec.eq_of_getLsbD_eq fun j hj => ?_
  simp only [loXfer, BitVec.getLsbD_or, BitVec.getLsbD_and, BitVec.getLsbD_shiftLeft, BitVec.getLsbD_setWidth,
    BitVec.getLsbD_append, BitVec.getLsbD_extractLsb']
  interval_cases j <;> simp

/-- Settles O40: the numbers of the two transfers, their fields, and the assembler's pair. -/
theorem wireFormatRoundTrip : Obligations.WireFormatRoundTrip := by
  intro ch b
  obtain ⟨hhich, hhigh, -⟩ := hiXfer_fields ch b
  obtain ⟨hloch, hlow, -⟩ := loXfer_fields ch b
  refine ⟨toNat_hiXfer ch b, toNat_loXfer ch b, hhich, hhigh, hloch, hlow, joinNibbles_halves ch b, ?_⟩
  rw [expand, linkpair_high, linkpair_low]

/-! ### Enqueue, poll and handler table -/

theorem State.txqRoom_of_lt {s : State} (h : s.muxUsed.toNat < 8) : s.txqRoom = true :=
  s.txqRoom_iff.2 h

theorem State.txqRoom_of_ge {s : State} (h : 8 ≤ s.muxUsed.toNat) : s.txqRoom = false :=
  Bool.eq_false_iff.2 (mt s.txqRoom_iff.1 h.not_gt)

/-- Settles O42: by the room in the queue, the kind of enqueue and the open wait. -/
theorem enqueueStoresFailsOrWaits : Obligations.EnqueueStoresFailsOrWaits := by
  refine fun ch b blk s => ⟨fun hroom => ?_, fun hfull hfails => ?_, fun hfull hblk hnone => ?_⟩
  · rw [exec_of_effect (.muxEnqStored (State.txqRoom_of_lt hroom)), txqStore_eq ch b hroom]
    rfl
  · exact exec_of_effect (.muxEnqFull (State.txqRoom_of_ge hfull) (hfails.imp_right Option.isSome_iff_ne_none.2))
  · subst hblk
    exact exec_of_effect (.muxEnqWaits (State.txqRoom_of_ge hfull) hnone)

/-- Settles O43: without a wait the poll is not enabled; with one, by the room in the queue and the polls left. -/
theorem enqRetryPollsTheWait : Obligations.EnqRetryPollsTheWait := by
  refine ⟨fun s hnone => exec_of_not_enabled (Option.isSome_eq_false_iff.2 (Option.isNone_iff_eq_none.2 hnone)),
    fun s w hwait => ⟨fun hroom => ?_, fun hfull hlast => ?_, fun hfull hleft => ?_⟩⟩
  · rw [exec_of_effect (.pollStores hwait (State.txqRoom_of_lt hroom)), txqStore_eq w.ch w.b hroom]
    rfl
  · exact exec_of_effect (.pollFails hwait (State.txqRoom_of_ge hfull) hlast)
  · exact exec_of_effect (.pollWaits hwait (State.txqRoom_of_ge hfull) hleft)

/-- A slot of the handler table after a write: the new entry in its own, every other as before (R61, R209). -/
theorem henLoad_henStore (s : State) (ch : Chan) (en : Bool) (c : Chan) :
    (s.henStore ch en).henLoad c = if c = ch then en else s.henLoad c := by
  simp only [State.henLoad, State.henStore, Vector.getElem_set, BitVec.toNat_inj, eq_comm]

/-- Settles O46: the write of one slot, then the response. -/
theorem regWritesOneSlot : Obligations.RegWritesOneSlot :=
  fun ch en s => ⟨_, rfl, rfl, henLoad_henStore s ch en⟩

/-! ### Reset -/

/-- Settles O50: the fields of the reset state, which are closed terms; every handler slot is empty. -/
theorem resetStateHoldsTheResetValues : Obligations.ResetStateHoldsTheResetValues := by
  unfold Obligations.ResetStateHoldsTheResetValues
  decide

/-- Settles O51: the reset step assigns the fields of the reset state. -/
theorem resetStepRestoresTheResetValues : Obligations.ResetStepRestoresTheResetValues := by
  refine fun s => ⟨rfl, fun hgapW => ?_, fun c => ⟨Counter.zeroed_value _, Counter.zeroed_max _⟩⟩
  rw [hgapW]
  rfl

end Sys2Proof.Machine

/-! PROOFS. The link (spec/45_mux_transport.md sections 2 to 4): the event, the transmit and receive laws, the round
trip (R206 to R211); and the end of a blocking enqueue (R205). -/

namespace Sys2Proof.Machine

/-! ### The event -/

/-- Settles O45: the event with `IE` = 1 field by field: by the half that comes in, the low
transfer owed and the nibble pending. -/
theorem linkEventSendsThenReceives : Obligations.LinkEventSendsThenReceives := by
  refine ⟨fun rx s hie => exec_of_not_enabled hie, fun rx s hie => ?_⟩
  rw [exec_evLink_enabled rx hie]
  cases hhigh : xferHigh rx <;> cases howed : s.muxTxlow <;> cases hpend : s.muxRxpend <;>
    simp [linked, TakesEntry, linkSent, linkDelivered, linkProtocolError, oldestEntry, hhigh, howed, hpend]

/-- What a link event adds to the record: the byte sent, then the byte delivered, if one is. -/
theorem newOutputs_linked (x : Byte) (s : State) :
    newOutputs s (linked x s) = .linkTx (linkSent s) :: linkDelivered x s :=
  newOutputs_eq rfl

theorem linkBytes_linked (x : Byte) (s : State) : linkBytes (newOutputs s (linked x s)) = [linkSent s] := by
  rw [newOutputs_linked]
  obtain hnone | ⟨p, -, -, -, -, hone⟩ := linkDelivered_cases x s
  · rw [hnone]; rfl
  · rw [hone]; rfl

theorem deliveredBytes_linked (x : Byte) (s : State) :
    deliveredBytes (newOutputs s (linked x s)) = deliveredBytes (linkDelivered x s) := by
  rw [newOutputs_linked]
  rfl

/-- A low transfer that matches the pending nibble is no protocol error (R208). -/
theorem linkProtocolError_of_pair {x : Byte} {s : State} {p : RxHigh} (hpend : s.muxRxpend = some p)
    (hlow : xferHigh x = false) (hch : p.ch = xferCh x) : linkProtocolError s x = false := by
  simp [linkProtocolError, hpend, hlow, hch]

/-- Settles O48: a delivery needs a matching pair, which is no protocol error. -/
theorem deliveriesComeFromMatchingPairs : Obligations.DeliveriesComeFromMatchingPairs := by
  intro rx s t hexec
  obtain ⟨-, rfl⟩ : s.ie = true ∧ t = linked rx s := by
    rw [← linkRx_linkTx]
    exact exec_evLink_cases hexec
  rw [deliveredBytes_linked]
  refine ⟨fun e he => ?_, fun herr => ⟨?_, if_pos herr⟩, fun hlow => ?_, fun hhigh => if_pos hhigh⟩
  · obtain hnone | ⟨p, hpend, hlow, hch, hen, hone⟩ := linkDelivered_cases rx s
    · rw [hnone] at he
      cases he
    · rw [hone] at he ⊢
      obtain rfl := List.mem_singleton.1 he
      exact ⟨p, hpend, hlow, hch, hen, rfl, rfl,
        if_neg (Bool.eq_false_iff.1 (linkProtocolError_of_pair hpend hlow hch))⟩
  · obtain hnone | ⟨p, hpend, hlow, hch, -⟩ := linkDelivered_cases rx s
    · rw [hnone]; rfl
    · exact absurd herr (Bool.eq_false_iff.1 (linkProtocolError_of_pair hpend hlow hch))
  · exact if_neg (Bool.eq_false_iff.1 hlow)

/-! ### The transmit law -/

/-- A link event with no low transfer owed takes the oldest entry: its high transfer goes out, its low one is owed
(R207). -/
theorem linked_takes {s : State} {e : TxEntry} {q : List TxEntry} (hlow : s.muxTxlow = none)
    (hq : txqEntries s = e :: q) (x : Byte) :
    txqEntries (linked x s) = q ∧ linkSent s = hiXfer e.ch e.b ∧ (linked x s).muxTxlow = some (loXfer e.ch e.b) := by
  have hpos := muxUsed_pos_of_txqEntries_cons hq
  have htakes : TakesEntry s := ⟨hlow, hpos⟩
  have hcons : txqEntries s = oldestEntry s :: txqEntries (linked x s) :=
    txqEntries_eq_cons hpos rfl (if_pos htakes) (if_pos htakes)
  obtain ⟨rfl, rfl⟩ := List.cons.inj (hq.symm.trans hcons)
  exact ⟨rfl, by simp [linkSent, hlow, htakes.2], if_pos htakes⟩

/-- A link event that owes a low transfer sends it and takes no entry (R207). -/
theorem linked_owed {s : State} {l : Byte} (howed : s.muxTxlow = some l) (x : Byte) :
    txqEntries (linked x s) = txqEntries s ∧ linkSent s = l ∧ (linked x s).muxTxlow = none := by
  have hnot : ¬ TakesEntry s := by simp [TakesEntry, howed]
  refine ⟨?_, by simp [linkSent, howed], if_neg hnot⟩
  have hr : (linked x s).muxRpos = s.muxRpos := if_neg hnot
  have hu : (linked x s).muxUsed = s.muxUsed := if_neg hnot
  have hq : (linked x s).muxTxq = s.muxTxq := rfl
  simp only [txqEntries, State.txqLoad, hr, hu, hq]

theorem length_txqEntries (s : State) : (txqEntries s).length = s.muxUsed.toNat := by
  simp [txqEntries]

theorem linkBytes_append (os ps : List Output) : linkBytes (os ++ ps) = linkBytes os ++ linkBytes ps :=
  List.filterMap_append

theorem deliveredBytes_append (os ps : List Output) :
    deliveredBytes (os ++ ps) = deliveredBytes os ++ deliveredBytes ps :=
  List.filterMap_append

/-- The two transfers of an entry, high then low (R202). -/
def entryPair (e : TxEntry) : List Byte := [hiXfer e.ch e.b, loXfer e.ch e.b]

/-- The queue drains two link events per entry, whatever comes in (R210). -/
theorem run_drains (q : List TxEntry) : ∀ (rxs : List Byte) (s : State), s.ie = true → s.muxTxlow = none →
    txqEntries s = q → rxs.length = 2 * q.length →
    ∃ t, runInstrs (rxs.map .evLink) s = .next t ∧ linkBytes (newOutputs s t) = q.flatMap entryPair ∧
      t.muxUsed = 0 ∧ t.muxTxlow = none := by
  induction q with
  | nil =>
    intro rxs s _ hlow hq hlen
    obtain rfl : rxs = [] := List.length_eq_zero_iff.1 hlen
    have hused : s.muxUsed.toNat = 0 := by rw [← length_txqEntries, hq]; rfl
    exact ⟨s, rfl, by simp [newOutputs, linkBytes], BitVec.eq_of_toNat_eq hused, hlow⟩
  | cons e q ih =>
    intro rxs s hie hlow hq hlen
    obtain ⟨x, y, rest, rfl⟩ : ∃ x y rest, rxs = x :: y :: rest := by
      match rxs, hlen with
      | x :: y :: rest, _ => exact ⟨x, y, rest, rfl⟩
    obtain ⟨hq₁, hsent₁, howed⟩ := linked_takes hlow hq x
    obtain ⟨hq₂, hsent₂, hlow₂⟩ := linked_owed howed y
    obtain ⟨t, hrun, hbytes, hused, hlow'⟩ :=
      ih rest (linked y (linked x s)) hie hlow₂ (hq₂.trans hq₁) (by simpa [Nat.mul_add] using hlen)
    have hstep₁ : Effect (.evLink x) s (linked x s) := .evLink hie
    have hstep₂ : Effect (.evLink y) (linked x s) (linked y (linked x s)) := .evLink hie
    have hrun₂ := (runInstrs_cons_of_effect hstep₂ (rest.map .evLink)).trans hrun
    refine ⟨t, (runInstrs_cons_of_effect hstep₁ _).trans hrun₂, ?_, hused, hlow'⟩
    rw [newOutputs_cons hstep₁ hrun₂, newOutputs_cons hstep₂ hrun, linkBytes_append, linkBytes_append, linkBytes_linked,
      linkBytes_linked, hsent₁, hsent₂, hbytes]
    rfl

/-- Settles O47: the queue's entries drain one by one, each in two events. -/
theorem queueDrainsAsAdjacentPairs : Obligations.QueueDrainsAsAdjacentPairs :=
  fun rxs s _ hie hlow hlen => run_drains (txqEntries s) rxs s hie hlow rfl (by rw [hlen, length_txqEntries])

/-! ### The round trip -/

/-- A high transfer with nothing pending is kept, with no error and no delivery (R208). -/
theorem linked_high {r : State} {x : Byte} (hpend : r.muxRxpend = none) (hhigh : xferHigh x = true) :
    (linked x r).muxRxpend = some { ch := xferCh x, nib := xferNib x } ∧ (linked x r).muxErr = r.muxErr ∧
      deliveredBytes (newOutputs r (linked x r)) = [] := by
  have herr : linkProtocolError r x = false := by simp [linkProtocolError, hpend, hhigh]
  refine ⟨if_pos hhigh, if_neg (Bool.eq_false_iff.1 herr), ?_⟩
  rw [deliveredBytes_linked]
  simp [linkDelivered, hpend, deliveredBytes]

/-- A low transfer that matches the pending nibble delivers the byte to a handler that is there (R208). -/
theorem linked_low {r : State} {x : Byte} {p : RxHigh} (hpend : r.muxRxpend = some p) (hlow : xferHigh x = false)
    (hch : p.ch = xferCh x) (hen : r.henLoad (xferCh x) = true) :
    (linked x r).muxRxpend = none ∧ (linked x r).muxErr = r.muxErr ∧
      deliveredBytes (newOutputs r (linked x r)) = [{ ch := xferCh x, b := joinNibbles p.nib (xferNib x) }] := by
  refine ⟨if_neg (Bool.eq_false_iff.1 hlow),
    if_neg (Bool.eq_false_iff.1 (linkProtocolError_of_pair hpend hlow hch)), ?_⟩
  rw [deliveredBytes_linked]
  simp [linkDelivered, hpend, hlow, hch, hen, deliveredBytes]

/-- A receiver with nothing pending delivers the entries whose transfers it is fed, in order (R211 (d)). -/
theorem run_receives (q : List TxEntry) : ∀ r : State, r.ie = true → r.muxRxpend = none →
    (∀ e ∈ q, r.henLoad e.ch = true) →
    ∃ r', runInstrs ((q.flatMap entryPair).map .evLink) r = .next r' ∧ deliveredBytes (newOutputs r r') = q ∧
      r'.muxErr = r.muxErr ∧ r'.muxRxpend = none := by
  induction q with
  | nil => exact fun r _ hpend _ => ⟨r, rfl, by simp [newOutputs, deliveredBytes], rfl, hpend⟩
  | cons e q ih =>
    intro r hie hpend hen
    obtain ⟨hhich, hhigh, -⟩ := hiXfer_fields e.ch e.b
    obtain ⟨hloch, hlow, -⟩ := loXfer_fields e.ch e.b
    obtain ⟨hpend₁, herr₁, hdel₁⟩ := linked_high hpend hhigh
    have hen₁ : (linked (hiXfer e.ch e.b) r).henLoad (xferCh (loXfer e.ch e.b)) = true := by
      rw [hloch]
      exact hen e (by simp)
    obtain ⟨hpend₂, herr₂, hdel₂⟩ := linked_low hpend₁ hlow (hhich.trans hloch.symm) hen₁
    obtain ⟨r', hrun, hdel, herr, hpend'⟩ :=
      ih (linked (loXfer e.ch e.b) (linked (hiXfer e.ch e.b) r)) hie hpend₂ fun e' he' => hen e' (by simp [he'])
    have hstep₁ : Effect (.evLink (hiXfer e.ch e.b)) r (linked (hiXfer e.ch e.b) r) := .evLink hie
    have hstep₂ : Effect (.evLink (loXfer e.ch e.b)) (linked (hiXfer e.ch e.b) r)
        (linked (loXfer e.ch e.b) (linked (hiXfer e.ch e.b) r)) := .evLink hie
    have hrun₂ := (runInstrs_cons_of_effect hstep₂ _).trans hrun
    refine ⟨r', (runInstrs_cons_of_effect hstep₁ _).trans hrun₂, ?_, herr.trans (herr₂.trans herr₁), hpend'⟩
    rw [newOutputs_cons hstep₁ hrun₂, newOutputs_cons hstep₂ hrun, deliveredBytes_append, deliveredBytes_append, hdel₁,
      hdel₂, hdel, joinNibbles_halves, hloch]
    rfl

/-- Settles O49: the sender's bytes are the pairs of its queue's entries, and these are what a receiver delivers. -/
theorem transportRoundTrip : Obligations.TransportRoundTrip := by
  intro rxs s s' r hinv hie hlow hlen hrun hrie hpend hen
  obtain ⟨t, ht, hbytes, -⟩ := queueDrainsAsAdjacentPairs rxs s hinv hie hlow hlen
  cases ht.symm.trans hrun
  rw [hbytes]
  exact run_receives (txqEntries s) r hrie hpend hen

/-! ### The end of a blocking enqueue -/

/-- Polls alone: as many as are left end the wait with one counted `FULL` (R205, D26). -/
theorem run_polls (n : Nat) : ∀ (s : State) (w : EnqWait), s.muxEnqw = some w → s.txqRoom = false → w.left = n + 1 →
    runInstrs (List.replicate (n + 1) .evEnqretry) s = .next { s with
      muxErr := s.muxErr.inc
      muxEnqw := none, ie := w.sie
      outputs := s.outputs ++ [.enqResult .full] } := by
  induction n with
  | zero =>
    intro s w hwait hfull hleft
    exact runInstrs_cons_of_effect (.pollFails hwait hfull hleft) []
  | succ n ih =>
    intro s w hwait hfull hleft
    rw [List.replicate_succ, runInstrs_cons_of_effect (.pollWaits hwait hfull (by omega))]
    exact ih _ { w with left := w.left - 1 } rfl hfull (by simp [hleft])

/-- A step on a full queue leaves an open wait open, but for one poll taken off, and reports nothing, unless it is the
last poll (R204, R205). -/
theorem Effect.keeps_waiting {i : Instr} {s t : State} {w : EnqWait} (h : Effect i s t) (hwait : s.muxEnqw = some w)
    (hfull : s.txqRoom = false) (hreset : i ≠ .evReset) (hleft : [i].count .evEnqretry < w.left) :
    t.muxEnqw = some { w with left := w.left - [i].count .evEnqretry } ∧ ∀ st, .enqResult st ∉ newOutputs s t := by
  by_cases hi : i = .evEnqretry
  · subst hi
    cases h with
    | answer hanswer => cases hanswer
    | pollStores _ hroom => exact absurd (hfull.symm.trans hroom) Bool.false_ne_true
    | pollFails hwait' _ hlast =>
      cases hwait.symm.trans hwait'
      exact absurd hleft (by simp [hlast])
    | pollWaits hwait' =>
      cases hwait.symm.trans hwait'
      exact ⟨rfl, by simp [newOutputs]⟩
  · have hcount : [i].count Instr.evEnqretry = 0 := count_singleton_of_ne hi
    refine ⟨?_, fun st hst => ?_⟩
    · obtain hsame | ⟨ch, b, -, -, hnone⟩ | hpoll := h.muxEnqw_frame hreset
      · rw [hsame, hwait, hcount, Nat.sub_zero]
      · exact absurd (hnone.symm.trans hwait) (Option.some_ne_none w).symm
      · exact absurd hpoll hi
    · have hemits := h.emits_of_mem hst
      cases i with
      | evEnqretry => exact absurd rfl hi
      | _ => cases hemits

/-- On a queue that stays full the wait goes on through a run of fewer polls than are left (R72, R205). -/
theorem run_keeps_waiting {is : List Instr} {s u : State} {w : EnqWait} (hwait : s.muxEnqw = some w)
    (hreset : .evReset ∉ is) (hleft : is.count .evEnqretry < w.left) (hrun : runInstrs is s = .next u)
    (hfull : ∀ (is₁ is₂ : List Instr) (v : State), is = is₁ ++ is₂ → runInstrs is₁ s = .next v → v.muxUsed.toNat = 8) :
    u.muxEnqw = some { w with left := w.left - is.count .evEnqretry } ∧ ∀ st, .enqResult st ∉ newOutputs s u := by
  induction is generalizing s w with
  | nil =>
    cases hrun
    exact ⟨hwait, by simp [newOutputs]⟩
  | cons i is ih =>
    have hcount := count_cons_eq_add i .evEnqretry is
    obtain ⟨v, hi, hrest⟩ := runInstrs_cons_next_iff.1 hrun
    obtain ⟨hwait', hnone⟩ := hi.keeps_waiting hwait (State.txqRoom_of_ge (hfull [] _ s rfl rfl).ge)
      (List.ne_of_not_mem_cons hreset).symm (by omega)
    obtain ⟨hwait'', hnone'⟩ := ih hwait' (List.not_mem_of_not_mem_cons hreset) (by show _ < w.left - _; omega) hrest
      fun is₁ is₂ v' his hrun' =>
        hfull (i :: is₁) is₂ v' (congrArg (i :: ·) his) ((runInstrs_cons_of_effect hi is₁).trans hrun')
    refine ⟨?_, fun st hst => ?_⟩
    · rw [hwait'', hcount, Nat.sub_sub]
    · rw [newOutputs_cons hi hrest, List.mem_append] at hst
      exact hst.elim (hnone st) (hnone' st)

/-- Settles O44: polls alone by induction on those left; among other steps by induction along the run, then the last
poll. -/
theorem blockingEnqueueEndsWithinItsBudget : Obligations.BlockingEnqueueEndsWithinItsBudget := by
  refine ⟨fun s w hinv hwait hused => ?_, fun is s u w hinv hwait hreset hleft hrun hfull => ?_⟩
  · obtain ⟨hpos, -⟩ := hinv.waitLegal w hwait
    obtain ⟨n, hn⟩ := Nat.exists_eq_add_of_le' hpos
    rw [hn]
    exact run_polls n s w hwait (State.txqRoom_of_ge hused.ge) hn
  · obtain ⟨hwait', hnone⟩ := run_keeps_waiting hwait hreset hleft hrun hfull
    refine ⟨hwait', hnone, fun hlast => ?_⟩
    have hused : u.muxUsed.toNat = 8 := hfull is [] u (List.append_nil is).symm hrun
    have hone : w.left - is.count .evEnqretry = 1 := by omega
    exact exec_of_effect (.pollFails (w := { w with left := w.left - is.count .evEnqretry }) hwait'
      (State.txqRoom_of_ge hused.ge) hone)

end Sys2Proof.Machine

/-! PROOFS. Storage that is not held shows nowhere (spec/10_state.md R37): the transmit queue as a list, and each step
repeated on another storage with the same bytes and entries held. -/

namespace Sys2Proof.Machine

/-! ### The transmit queue as a list -/

/-- What a step makes of the entries of the transmit queue, by the registers of the state before it (R203, R207). -/
def txqNext (i : Instr) (s : State) (q : List TxEntry) : List TxEntry :=
  match i with
  | .muxEnq ch b _ => if s.txqRoom then q ++ [{ ch := ch, b := b }] else q
  | .evEnqretry => if s.txqRoom then q ++ s.muxEnqw.toList.map fun w => { ch := w.ch, b := w.b } else q
  | .evLink _ => if s.muxTxlow = none then q.tail else q
  | .evReset => []
  | _ => q

/-- A link event takes the oldest entry, where there is one and no low transfer is owed (R207). -/
theorem txqEntries_linked (x : Byte) (s : State) :
    txqEntries (linked x s) = if s.muxTxlow = none then (txqEntries s).tail else txqEntries s := by
  cases howed : s.muxTxlow with
  | some l => exact (linked_owed howed x).1
  | none =>
    cases hq : txqEntries s with
    | cons e q => exact (linked_takes howed hq x).1
    | nil =>
      have hused : s.muxUsed.toNat = 0 := by rw [← length_txqEntries, hq]; rfl
      have hnot : ¬ TakesEntry s := fun h => by have := h.2; omega
      have hu : (linked x s).muxUsed = s.muxUsed := if_neg hnot
      exact List.length_eq_zero_iff.1 (by rw [length_txqEntries, hu, hused])

theorem Answer.txqNext_eq {i : Instr} {s : State} {st : Status} {v : Half} (h : Answer i s st v) (q : List TxEntry) :
    txqNext i s q = q := by
  cases h <;> rfl

/-- Every step takes the queue's entries as the list says (R203, R207). -/
theorem Effect.txqEntries_eq {i : Instr} {s t : State} (h : Effect i s t) :
    txqEntries t = txqNext i s (txqEntries s) := by
  cases h with
  | answer hanswer => exact (hanswer.txqNext_eq _).symm
  | muxEnqStored hroom => exact (txqEntries_txqStore _ _ (s.txqRoom_iff.1 hroom)).trans (if_pos hroom).symm
  | muxEnqFull hfull | muxEnqWaits hfull => exact (if_neg (Bool.eq_false_iff.1 hfull)).symm
  | evLink => exact txqEntries_linked _ _
  | pollStores hwait hroom =>
    refine (txqEntries_txqStore _ _ (s.txqRoom_iff.1 hroom)).trans ?_
    simp [txqNext, hroom, hwait]
  | pollFails _ hfull | pollWaits _ hfull => exact (if_neg (Bool.eq_false_iff.1 hfull)).symm
  | _ => rfl

/-! ### Another storage -/

/-- The state with other contents in its two storage arrays. -/
def State.withStorage (s : State) (m : Memory) (q : Vector TxEntry 8) : State := { s with rbufMem := m, muxTxq := q }

/-- States with the same visible part are one state on two storages. -/
theorem SameVisible.eq_withStorage {s t : State} (h : SameVisible s t) : t = s.withStorage t.rbufMem t.muxTxq := by
  conv_rhs => rw [← h.registers]
  rfl

section OtherStorage

variable {s : State} {m : Memory} {q : Vector TxEntry 8}

/-- A byte held reads the same on both storages. -/
theorem read_withStorage (hbytes : rbufBytes (s.withStorage m q) = rbufBytes s) {k : Nat} (hk : k < s.rbufHeld) :
    m.read ((s.rbufR.toNat + k) % s.cfg.rbufSize) = s.rbufMem.read ((s.rbufR.toNat + k) % s.cfg.rbufSize) := by
  have hother := getElem?_rbufBytes (s := s.withStorage m q) hk
  rw [hbytes, getElem?_rbufBytes hk] at hother
  exact (Option.some.inj hother).symm

/-- The byte at the read index, where one is held, reads the same on both storages. -/
theorem read_oldest_withStorage (hinv : Inv s) (hbytes : rbufBytes (s.withStorage m q) = rbufBytes s)
    (hheld : s.rbufR ≠ s.rbufW) : m.read s.rbufR.toNat = s.rbufMem.read s.rbufR.toNat := by
  have hpos : 0 < s.rbufHeld :=
    Nat.pos_of_ne_zero (mt (s.rbufHeld_zero_iff hinv.rLt hinv.wLt).1 hheld)
  have hread := read_withStorage hbytes hpos
  rwa [Nat.add_zero, Nat.mod_eq_of_lt hinv.rLt] at hread

/-- The oldest entry, where one is queued, is the same on both storages. -/
theorem oldestEntry_withStorage (hentries : txqEntries (s.withStorage m q) = txqEntries s)
    (hpos : 0 < s.muxUsed.toNat) : oldestEntry (s.withStorage m q) = oldestEntry s := by
  have hhead (t : State) (ht : 0 < t.muxUsed.toNat) : (txqEntries t).head? = some (oldestEntry t) := by
    have hcons := txqEntries_eq_cons (s := t)
      (t := { t with muxRpos := t.muxRpos + 1, muxUsed := t.muxUsed - 1 }) ht rfl rfl rfl
    rw [hcons]
    rfl
  have hother := hhead (s.withStorage m q) hpos
  rw [hentries, hhead s hpos] at hother
  exact (Option.some.inj hother).symm

/-- A link event sends and owes the same on both storages. -/
theorem linked_withStorage (hentries : txqEntries (s.withStorage m q) = txqEntries s) (x : Byte) :
    linked x (s.withStorage m q) = (linked x s).withStorage m q := by
  by_cases hpos : 0 < s.muxUsed.toNat
  · simp only [linked, linkSent, oldestEntry_withStorage hentries hpos]
    rfl
  · have hpos' : ¬ 0 < (s.withStorage m q).muxUsed.toNat := hpos
    simp only [linked, linkSent, TakesEntry, hpos, hpos', and_false, if_false]
    rfl

/-- A command that only answers answers the same on both storages. -/
theorem Answer.withStorage {i : Instr} {st : Status} {v : Half} (h : Answer i s st v)
    (hbytes : rbufBytes (s.withStorage m q) = rbufBytes s) : Answer i (s.withStorage m q) st v := by
  cases h with
  | cntRd hidx => exact .cntRd hidx
  | cntRdRefused hidx => exact .cntRdRefused hidx
  | evfSetRefused hwide => exact .evfSetRefused hwide
  | evfClrRefused hwide => exact .evfClrRefused hwide
  | evfTst hfits => exact .evfTst hfits
  | evfTstRefused hwide => exact .evfTstRefused hwide
  | rbufPopEmpty hempty => exact .rbufPopEmpty hempty
  | rbufAvail => exact .rbufAvail
  | rbufPeekRange hrange => exact .rbufPeekRange hrange
  | rbufPeek hheld hslot =>
    rw [← read_withStorage hbytes (Nat.not_le.1 hheld)]
    exact .rbufPeek (s := s.withStorage m q) hheld hslot
  | mtdSetthrRefused hwide => exact .mtdSetthrRefused hwide
  | mtdSetthrBadarg hfits hbad => exact .mtdSetthrBadarg hfits hbad
  | mtdRdgap => exact .mtdRdgap

/-- A step is taken on both storages, to one state on two storages. -/
theorem Effect.withStorage {i : Instr} {s' : State} (h : Effect i s s') (hinv : Inv s)
    (hbytes : rbufBytes (s.withStorage m q) = rbufBytes s) (hentries : txqEntries (s.withStorage m q) = txqEntries s) :
    ∃ m' q', Effect i (s.withStorage m q) (s'.withStorage m' q') := by
  cases h with
  | answer hanswer => exact ⟨m, q, .answer (hanswer.withStorage hbytes)⟩
  | ienEnter => exact ⟨m, q, .ienEnter⟩
  | ienExit => exact ⟨m, q, .ienExit⟩
  | ienOn => exact ⟨m, q, .ienOn⟩
  | evfSet hfits => exact ⟨m, q, .evfSet hfits⟩
  | evfClr hfits => exact ⟨m, q, .evfClr hfits⟩
  | rbufPush hw => exact ⟨_, q, .rbufPush hw⟩
  | rbufPop hheld hr =>
    rw [← read_oldest_withStorage hinv hbytes hheld]
    exact ⟨m, q, .rbufPop (s := s.withStorage m q) hheld hr⟩
  | rbufFlush => exact ⟨m, q, .rbufFlush⟩
  | mtdSetthr hfits hlt => exact ⟨m, q, .mtdSetthr hfits hlt⟩
  | muxEnqStored hroom => exact ⟨m, _, .muxEnqStored hroom⟩
  | muxEnqFull hfull hfails => exact ⟨m, q, .muxEnqFull hfull hfails⟩
  | muxEnqWaits hfull hnone => exact ⟨m, q, .muxEnqWaits hfull hnone⟩
  | muxReg => exact ⟨m, q, .muxReg⟩
  | baseTickCounts hie hdiv => exact ⟨m, q, .baseTickCounts hie hdiv⟩
  | baseTickOverruns hie hdiv hguard => exact ⟨m, q, .baseTickOverruns hie hdiv hguard⟩
  | baseTickIdles hie hdiv hguard hnone => exact ⟨m, q, .baseTickIdles hie hdiv hguard hnone⟩
  | baseTickFires hie hdiv hguard hhook => exact ⟨m, q, .baseTickFires hie hdiv hguard hhook⟩
  | evHookdone => exact ⟨m, q, .evHookdone⟩
  | gapTickCounts hgap => exact ⟨m, q, .gapTickCounts hgap⟩
  | gapTickStops hgap => exact ⟨m, q, .gapTickStops hgap⟩
  | evMbrx hie => exact ⟨m, q, .evMbrx hie⟩
  | evConrx hie hw => exact ⟨_, q, .evConrx hie hw⟩
  | evLink hie => exact ⟨m, q, linked_withStorage hentries _ ▸ .evLink hie⟩
  | pollStores hwait hroom => exact ⟨m, _, .pollStores hwait hroom⟩
  | pollFails hwait hfull hlast => exact ⟨m, q, .pollFails hwait hfull hlast⟩
  | pollWaits hwait hfull hleft => exact ⟨m, q, .pollWaits hwait hfull hleft⟩
  | evReset => exact ⟨m, q, .evReset⟩

end OtherStorage

/-- Settles O59: the same step on the other storage; the bytes and the entries held after it follow from those held
before it, the same on both. -/
theorem unspecifiedStorageIsUnobservable : Obligations.UnspecifiedStorageIsUnobservable := by
  intro i s t s' hinv hinvt hsame hexec
  obtain ⟨m, q, rfl⟩ : ∃ m q, t = s.withStorage m q := ⟨_, _, hsame.eq_withStorage⟩
  have h := effect_of_exec hexec
  obtain ⟨m', q', h'⟩ := h.withStorage hinv hsame.rbuf hsame.txq
  refine ⟨_, exec_of_effect h', ⟨rfl, ?_, ?_⟩, rfl⟩
  · rw [h'.rbufBytes_eq hinvt, hsame.rbuf, h.rbufBytes_eq hinv]
    rfl
  · rw [h'.txqEntries_eq, hsame.txq, h.txqEntries_eq]
    rfl

end Sys2Proof.Machine

/-! PROOFS. A clock is one interleaving of its steps (spec/60_exceptions.md R249, R250, R252; spec/42_ring_buffer.md
R147). -/

namespace Sys2Proof.Machine

/-! ### Enabledness within a clock -/

/-- An event that decides no other's enabledness: neither a poll nor reset. -/
def KeepsEnabling (i : Instr) : Prop := isEvent i = true ∧ i ≠ .evEnqretry ∧ i ≠ .evReset

/-- Such an event leaves `IE` and the wait. -/
theorem Effect.ie_and_wait_eq {i : Instr} {s t : State} (h : Effect i s t) (hi : KeepsEnabling i) :
    t.ie = s.ie ∧ t.muxEnqw = s.muxEnqw := by
  obtain ⟨hevent, hpoll, hreset⟩ := hi
  cases h with
  | answer hanswer => exact absurd hevent (Bool.eq_false_iff.1 hanswer.not_isEvent)
  | pollStores | pollFails | pollWaits => exact absurd rfl hpoll
  | evReset => exact absurd rfl hreset
  | ienEnter | ienExit | ienOn | evfSet | evfClr | rbufPush | rbufPop | rbufFlush | mtdSetthr | muxEnqStored
  | muxEnqFull | muxEnqWaits | muxReg => exact absurd hevent Bool.false_ne_true
  | _ => exact ⟨rfl, rfl⟩

/-- Enabledness is a matter of `IE` and the wait (R241). -/
theorem enabled_congr {s t : State} (hie : t.ie = s.ie) (hwait : t.muxEnqw = s.muxEnqw) (i : Instr) :
    enabled i t = enabled i s := by
  rw [enabled, enabled, hie, hwait]

/-! ### The events of a clock -/

/-- The events of a clock before the waiter's turn (R252). -/
def Strobes.sourceEvents (k : Strobes) : List Instr := { k with enqPoll := false }.events

theorem Strobes.events_eq (k : Strobes) :
    k.events = k.sourceEvents ++ if k.enqPoll then [.evEnqretry] else [] := by
  simp [Strobes.sourceEvents, Strobes.events]

theorem Strobes.keepsEnabling_of_mem {k : Strobes} {i : Instr} (hi : i ∈ k.sourceEvents) : KeepsEnabling i := by
  simp only [Strobes.sourceEvents, Strobes.events, List.mem_append, List.mem_map, List.mem_ite_nil_right,
    List.mem_singleton, Bool.false_eq_true, if_false, List.not_mem_nil, or_false] at hi
  obtain (((((⟨-, rfl⟩ | ⟨-, rfl⟩) | ⟨m, -, rfl⟩) | ⟨x, -, rfl⟩) | ⟨d, -, rfl⟩) | ⟨-, rfl⟩) := hi <;>
    exact ⟨rfl, by simp, by simp⟩

/-- Every event of a clock but the last leaves the others' enabledness: a poll comes last (R252). -/
theorem Strobes.events_pairwise (k : Strobes) : k.events.Pairwise fun i _ => KeepsEnabling i := by
  rw [k.events_eq, List.pairwise_append]
  refine ⟨List.pairwise_of_forall_mem_list fun i hi _ _ => Strobes.keepsEnabling_of_mem hi, ?_,
    fun i hi _ _ => Strobes.keepsEnabling_of_mem hi⟩
  split <;> simp

/-- The events of a clock are sources' events or the waiter's poll. -/
theorem Strobes.mem_events_cases {k : Strobes} {i : Instr} (hi : i ∈ k.events) : KeepsEnabling i ∨ i = .evEnqretry := by
  rw [k.events_eq, List.mem_append] at hi
  refine hi.imp Strobes.keepsEnabling_of_mem fun hpoll => ?_
  split at hpoll
  · exact List.mem_singleton.1 hpoll
  · cases hpoll

/-- Taking the events in turn is the run of those enabled at the start; the gated others are handed back (R249,
R252). -/
theorem clockEvents_next {is : List Instr} (hpair : is.Pairwise fun i _ => KeepsEnabling i) :
    ∀ {s t : State} {held : List Instr}, clockEvents is s = .next (t, held) →
      runInstrs (is.filter fun i => enabled i s) s = .next t ∧
      held = is.filter fun i => isGated i && !enabled i s := by
  induction is with
  | nil =>
    intro s t held h
    cases h
    exact ⟨rfl, rfl⟩
  | cons i is ih =>
    intro s t held h
    obtain ⟨hi, hpair⟩ := List.pairwise_cons.1 hpair
    cases hen : enabled i s with
    | true =>
      simp only [clockEvents, hen, if_true] at h
      cases hexec : exec i s with
      | next u =>
        rw [hexec] at h
        have hu := effect_of_exec hexec
        have hsame : ∀ j ∈ is, enabled j u = enabled j s := fun j hj => by
          obtain ⟨hie, hwait⟩ := hu.ie_and_wait_eq (hi j hj)
          exact enabled_congr hie hwait j
        obtain ⟨hrun, rfl⟩ := ih hpair h
        rw [List.filter_congr hsame] at hrun
        refine ⟨?_, ?_⟩
        · simp only [List.filter_cons, hen, if_true]
          exact (runInstrs_cons_of_effect hu _).trans hrun
        · simp only [List.filter_cons, hen, Bool.not_true, Bool.and_false, Bool.false_eq_true, if_false]
          exact List.filter_congr fun j hj => by rw [hsame j hj]
      | fault r => simp [hexec] at h
      | refused r => simp [hexec] at h
    | false =>
      simp only [clockEvents, hen, Bool.false_eq_true, if_false] at h
      cases hrest : clockEvents is s with
      | next p =>
        obtain ⟨u, held'⟩ := p
        rw [hrest] at h
        cases h
        obtain ⟨hrun, rfl⟩ := ih hpair hrest
        refine ⟨?_, ?_⟩
        · simp only [List.filter_cons, hen, Bool.false_eq_true, if_false]
          exact hrun
        · simp only [List.filter_cons, hen, Bool.not_false, Bool.and_true]
      | fault r => simp [hrest] at h
      | refused r => simp [hrest] at h

/-- From a legal state the events of a clock complete, in a legal state. -/
theorem clockEvents_total (is : List Instr) :
    ∀ {s : State}, Inv s → ∃ t held, clockEvents is s = .next (t, held) ∧ Inv t := by
  induction is with
  | nil => exact fun hinv => ⟨_, [], rfl, hinv⟩
  | cons i is ih =>
    intro s hinv
    cases hen : enabled i s with
    | true =>
      obtain ⟨u, hu⟩ := exists_effect hinv hen
      obtain ⟨t, held, h, ht⟩ := ih (hu.keeps_inv hinv)
      exact ⟨t, held, by simp [clockEvents, hen, exec_of_effect hu, h], ht⟩
    | false =>
      obtain ⟨t, held, h, ht⟩ := ih hinv
      exact ⟨t, if isGated i then i :: held else held, by simp [clockEvents, hen, h], ht⟩

/-! ### The command of a clock -/

/-- An operation is an event exactly when its opcode has bit 7 set (R80). -/
theorem isEvent_eq_opcode_bit (i : Instr) : isEvent i = i.opcode.getLsbD 7 := by
  cases i <;> simp [isEvent, agentOf, Instr.opcode]

/-- A word of `OPC[7]` = 0 spells a command (R80, R83). -/
theorem isEvent_of_decode {w : Word} {i : Instr} (hport : isEventWord w = false) (h : decode w = .ok i) :
    isEvent i = false := by
  obtain ⟨rfl, -⟩ := encodeOfDecodeIsTheWord w i h
  obtain ⟨hopc, -⟩ := (eq_append_iff (encode i) i.opcode i.operands).1 rfl
  rw [isEvent_eq_opcode_bit, ← hopc]
  simpa [opcodeOf, isEventWord] using hport

/-- A command is enabled in every state (R241). -/
theorem enabled_of_command {i : Instr} (h : isEvent i = false) (s : State) : enabled i s = true := by
  cases i with
  | evBasetick | evHookdone | evGaptick | evMbrx | evConrx | evLink | evEnqretry | evReset => cases h
  | _ => rfl

/-- On a legal state every word on the command port is taken (R41, R86). -/
theorem presentCommand_total (w : Word) {s : State} (hinv : Inv s) : ∃ t, presentCommand w s = .next t := by
  cases hport : isEventWord w with
  | true => exact ⟨s.respond .refused 0, if_pos hport⟩
  | false =>
    cases hdecode : decode w with
    | error e => exact ⟨_, presentCommand_of_error hdecode s⟩
    | ok i =>
      obtain ⟨t, ht⟩ := exists_effect hinv (enabled_of_command (isEvent_of_decode hport hdecode) s)
      exact ⟨t, by simp only [presentCommand, hport, hdecode, exec_of_effect ht, Bool.false_eq_true, if_false]⟩

/-- A clock without reset is its events, then its command (R252). -/
theorem clock_next {k : Strobes} {s t : State} {held : List Instr} (hrst : k.rst = false)
    (h : clock k s = .next (t, held)) :
    ∃ u held', clockEvents k.events s = .next (u, held') ∧
      ((k.cmd = none ∧ t = u ∧ held = held') ∨
        ∃ w, k.cmd = some w ∧ presentCommand w u = .next t ∧ held = stillHeld u t held') := by
  simp only [clock, hrst, Bool.false_eq_true, if_false] at h
  cases hev : clockEvents k.events s with
  | next p =>
    obtain ⟨u, held'⟩ := p
    simp only [hev] at h
    refine ⟨u, held', rfl, ?_⟩
    cases hcmd : k.cmd with
    | none =>
      simp only [hcmd] at h
      cases h
      exact .inl ⟨rfl, rfl, rfl⟩
    | some w =>
      simp only [hcmd] at h
      cases hpresent : presentCommand w u with
      | next v =>
        simp only [hpresent] at h
        cases h
        exact .inr ⟨w, rfl, hpresent, rfl⟩
      | fault r => simp [hpresent] at h
      | refused r => simp [hpresent] at h
  | fault r => simp [hev] at h
  | refused r => simp [hev] at h

/-- From a legal state a clock completes (R250). -/
theorem clock_total (k : Strobes) {s : State} (hinv : Inv s) : ∃ t held, clock k s = .next (t, held) := by
  cases hrst : k.rst with
  | true => exact ⟨resetBlock s, [], by rw [clock, if_pos hrst]; rfl⟩
  | false =>
    obtain ⟨u, held, hev, hu⟩ := clockEvents_total k.events hinv
    cases hcmd : k.cmd with
    | none => exact ⟨u, held, by simp [clock, hrst, hev, hcmd]⟩
    | some w =>
      obtain ⟨t, ht⟩ := presentCommand_total w hu
      exact ⟨t, stillHeld u t held, by simp [clock, hrst, hev, hcmd, ht]⟩

/-- What stays held of a list: console bytes only where no drain was emitted (R147, R247). -/
theorem mem_stillHeld_iff {s t : State} {held : List Instr} {i : Instr} :
    i ∈ stillHeld s t held ↔ i ∈ held ∧ ((∃ d, i = .evConrx d) → .conDrain ∉ newOutputs s t) := by
  have hconuart : agentOf i = .conuart ↔ ∃ d, i = .evConrx d := by
    cases i <;> simp [agentOf]
  rw [← hconuart, stillHeld]
  split
  · next hdrain => simp [hdrain]
  · next hdrain => simp [hdrain]

/-! ### The obligation -/

/-- What is not enabled is gated, or a poll without a wait (R241). -/
theorem not_enabled_cases {i : Instr} {s : State} (hen : enabled i s = false) :
    isGated i = true ∨ (i = .evEnqretry ∧ s.muxEnqw = none) := by
  cases i with
  | evBasetick | evMbrx | evConrx | evLink => exact .inl rfl
  | evEnqretry => exact .inr ⟨rfl, Option.isNone_iff_eq_none.1 (Option.isSome_eq_false_iff.1 hen)⟩
  | _ => cases hen

/-- Without a wait open at its start the enabled events of a clock leave none open. -/
theorem run_enabled_wait_eq {k : Strobes} {s u : State} (hnone : s.muxEnqw = none)
    (hrun : runInstrs (k.events.filter fun i => enabled i s) s = .next u) : u.muxEnqw = none := by
  refine (run_induction (R := fun s t => t.muxEnqw = s.muxEnqw) (fun _ => rfl) (fun _ _ _ hst htu => htu.trans hst)
    (fun i hi s' t' h => ?_) hrun).trans hnone
  obtain ⟨hmem, hen⟩ := List.mem_filter.1 hi
  obtain hkeeps | rfl := Strobes.mem_events_cases hmem
  · exact (h.ie_and_wait_eq hkeeps).2
  · have hclosed : enabled .evEnqretry s = false := congrArg Option.isSome hnone
    exact absurd hen (Bool.eq_false_iff.1 hclosed)

/-- Settles O60: the events by induction along the clock, then the command; a poll that is not enabled finds no wait
open after the clock's events either. -/
theorem aClockIsOneInterleaving : Obligations.AClockIsOneInterleaving := by
  refine ⟨fun k s t held hrst h => ?_, fun k s hinv => clock_total k hinv, fun k s hrst => ?_⟩
  · obtain ⟨u, held', hev, hcmd⟩ := clock_next hrst h
    obtain ⟨hrun, rfl⟩ := clockEvents_next k.events_pairwise hev
    refine ⟨u, hrun, ?_, fun i _ hen => ?_, fun i => ?_⟩
    · obtain ⟨hnone, rfl, -⟩ | ⟨w, hw, hpresent, -⟩ := hcmd
      · rw [hnone]
      · rw [hw]
        exact hpresent
    · exact (not_enabled_cases hen).imp_right fun ⟨hi, hnone⟩ => ⟨hi, run_enabled_wait_eq hnone hrun⟩
    · have hheld : i ∈ (k.events.filter fun i => isGated i && !enabled i s) ↔
          i ∈ k.events ∧ isGated i = true ∧ enabled i s = false := by
        rw [List.mem_filter, Bool.and_eq_true, Bool.not_eq_true']
      obtain ⟨-, rfl, rfl⟩ | ⟨w, -, -, rfl⟩ := hcmd
      · rw [hheld]
        simp [newOutputs]
      · rw [mem_stillHeld_iff, hheld, and_assoc, and_assoc]
  · rw [clock, if_pos hrst]
    rfl

end Sys2Proof.Machine
